-- ==== Sys2Proof/Config.lean ====
section
/-! DEFINITION. What an implementation fixes. The spec leaves one thing to it: `LMAX` (R12, D2). The model carries
`LMAX` as a field of the state (`Machine.State.lmax`), which no step changes, so that a statement about every state
is a statement about every `LMAX`. Only the one state `State.reset`, and `decodeTableWord`, need a number. -/

namespace Sys2Proof

/-- The `LMAX` of `State.reset` and of `decodeTableWord`. DESIGN CHOICE (log entry 1): the spec leaves `LMAX` open
and uses 8 in every example (R12). Unsafe only for a statement about `State.reset` itself or about
`decodeTableWord`; a state of any other `LMAX` is a state of the model too. -/
def Config.lmax : Nat := 8

end Sys2Proof
end

