-- ==== Sys2Proof/Word.lean ====
section
/-! DEFINITION. The three kinds of plain data every other file speaks of: a sequence of bits (R17, R18), the index of
a shift register (R24), and the operands `CFG` takes for one register (R67). The functions over them stand in
Machine/Bus.lean. -/

namespace Sys2Proof

/-- A sequence of bits, element 0 first. As a bus it is listed from bit 0, the least significant, upwards (R17), so
element `j` is the wire `b[j]`; as the content of a register element 0 is the front cell (R18). R48 gives the fill
bus, the tap bus and the observation ports exactly this order. A list, because the widths `LMAX` and `W_LEN` are
parameters of the built block (R12, R13) and the length of a content is a run-time value (R14). -/
abbrev Bits := List Bool

/-- The three shift registers of R24: `R0` the decider, `R1` the first, `R2` the second. -/
inductive RegIdx where
  | r0
  | r1
  | r2
  deriving DecidableEq, Repr

/-- What a `CFG` gives for one register (R68, R69, R70): the length `L_i`, an unsigned integer; the fill bus and the
tap mask, both wire by wire. -/
structure RegConfig where
  len  : Nat
  fill : Bits
  tap  : Bits
  deriving DecidableEq, Repr

end Sys2Proof
end

