-- ==== Sys2Proof/Machine/Bus.lean ====
section
/-! DEFINITION. Functions over bit sequences and buses (R13, R17, R19), and the three operations on a register's bits
that the spec writes as notation: an element, a slice that is not zero, the parity of a collection. -/

namespace Sys2Proof

/-- The XOR of a finite collection of bits; an empty collection has parity 0 (R19). -/
def parity : Bits → Bool
  | [] => false
  | b :: bs => xor b (parity bs)

/-- `b[j]` of a bus, `c[j]` of a content. No rule reads an element that does not exist; should one be asked for, in a
state that no run reaches, it reads 0 (log entry 5). -/
def bitAt (b : Bits) (j : Nat) : Bool :=
  b.getD j false

/-- The bus with all `w` bits 0. -/
def zeros (w : Nat) : Bits :=
  List.replicate w false

/-- `zext` of a bus: the unsigned integer whose bit `j` is element `j` (R17, R68). -/
def bitsToNat : Bits → Nat
  | [] => 0
  | b :: bs => b.toNat + 2 * bitsToNat bs

/-- The value `n` on a bus of `w` bits. -/
def natToBits : Nat → Nat → Bits
  | 0, _ => []
  | w + 1, n => (n % 2 == 1) :: natToBits w (n / 2)

/-- Whether the slice of a bus from its top bit down to bit `lo` differs from 0. A slice that starts above the top bit
is empty and equals 0 (R17). -/
def sliceNonzero (b : Bits) (lo : Nat) : Bool :=
  (b.drop lo).any id

/-- How many bits it takes to write `n`, counted by halving; `fuel` bounds the count. -/
def bitLength : Nat → Nat → Nat
  | 0, _ => 0
  | fuel + 1, n => if n = 0 then 0 else bitLength fuel (n / 2) + 1

/-- `W_LEN`, the smallest width that holds every value `0..LMAX` (R13). -/
def lenWidth (lmax : Nat) : Nat :=
  bitLength lmax lmax

end Sys2Proof
end

