-- ==== Sys2Proof/Syntax.lean ====
section
/-! DEFINITION. The instructions of spec/opcode_table.json, one constructor per row. -/

namespace Sys2Proof

/-- The commands of the command port (R66). Only `CFG` has operands: nine, three for each register (R67). -/
inductive Instr where
  /-- `cmd_op = 00`: no operation (R113). -/
  | nop
  /-- `cmd_op = 01`: produce one keystream bit (R100). -/
  | gen
  /-- `cmd_op = 10`: load and check the configuration of all three registers (R91). -/
  | cfg (c0 c1 c2 : RegConfig)
  /-- `cmd_op = 11`: the reserved opcode, an illegal command (R115). -/
  | reserved
  deriving DecidableEq, Repr

end Sys2Proof
end

