-- ==== Sys2Proof/WellFormed.lean ====
section
/-! DEFINITION. Which instructions the ports of a block with a given `LMAX` can carry: each operand fits its bus
(R63). Whether `CFG` accepts the operands is another matter, and part of its meaning: a length of 0 or above `LMAX`
is well formed (R68, R73). -/

namespace Sys2Proof

/-- The operands of one register fit the `W_LEN`-bit length bus and the two `LMAX`-bit buses (R63). -/
def RegConfig.wellFormed (lmax : Nat) (c : RegConfig) : Bool :=
  decide (c.len < 2 ^ lenWidth lmax) && c.fill.length == lmax && c.tap.length == lmax

/-- `i` can be driven onto the ports of a block built with this `LMAX`. -/
def Instr.wellFormed (lmax : Nat) : Instr → Bool
  | .nop => true
  | .gen => true
  | .cfg c0 c1 c2 => c0.wellFormed lmax && c1.wellFormed lmax && c2.wellFormed lmax
  | .reserved => true

end Sys2Proof
end

