-- ==== Sys2Proof/Decode.lean ====
section
/-! DEFINITION. What the input ports carry in one cycle, the decoder that reads a command from it, and the encoder.
The block fetches nothing and holds no program (R39, R61): a command is the two wires `cmd_op` together with the
configuration bus of the same cycle (R64), and a program is a sequence of cycles (R77). -/

namespace Sys2Proof

/-- The three configuration inputs of one register, wire by wire: `cfg_len_i`, `cfg_fill_i`, `cfg_tap_i` (R63). -/
structure RegBus where
  len  : Bits
  fill : Bits
  tap  : Bits
  deriving DecidableEq, Repr

/-- The value of every input port but `clk` at one rising edge of `clk`: the tuple of R77. -/
structure Cycle where
  rst      : Bool
  cmdValid : Bool
  cmdOp    : BitVec 2
  bus0     : RegBus
  bus1     : RegBus
  bus2     : RegBus
  deriving DecidableEq, Repr

/-- Why no command is read from a cycle. -/
inductive NoCommand where
  /-- `rst = 1`: the cycle is a reset and carries no command (R65, R138). -/
  | resetCycle
  /-- `rst = 0` and `cmd_valid = 0`: the cycle carries no command (R65). -/
  | idleCycle
  /-- A `CFG` whose configuration bus does not have the widths of R63: no such cycle can be driven. -/
  | busWidth
  deriving DecidableEq, Repr

/-- Whether the inputs of one register have the widths R63 gives them. -/
def RegBus.fits (lmax : Nat) (b : RegBus) : Bool :=
  b.len.length == lenWidth lmax && b.fill.length == lmax && b.tap.length == lmax

/-- The operands on the inputs of one register: the length is zero-extended (R68), the fill and the tap mask are
taken wire by wire (R69, R70). -/
def RegBus.operands (b : RegBus) : RegConfig :=
  { len := bitsToNat b.len, fill := b.fill, tap := b.tap }

/-- The inputs that carry the operands of one register. -/
def RegConfig.drive (lmax : Nat) (c : RegConfig) : RegBus :=
  { len := natToBits (lenWidth lmax) c.len, fill := c.fill, tap := c.tap }

/-- The inputs of one register, all 0. -/
def RegBus.allZero (lmax : Nat) : RegBus :=
  { len := zeros (lenWidth lmax), fill := zeros lmax, tap := zeros lmax }

/-- The opcode map of R66. `NOP`, `GEN` and the reserved opcode ignore the configuration bus (R67). -/
def decodeCommand (lmax : Nat) (op : BitVec 2) (b0 b1 b2 : RegBus) : Except NoCommand Instr :=
  if op = 0b00#2 then .ok .nop
  else if op = 0b01#2 then .ok .gen
  else if op = 0b10#2 then
    if b0.fits lmax && b1.fits lmax && b2.fits lmax then .ok (.cfg b0.operands b1.operands b2.operands)
    else .error .busWidth
  else .ok .reserved

/-- What one cycle asks of a block built with this `LMAX`: a command, or the reason why there is none (R64, R65). -/
def decode (lmax : Nat) (c : Cycle) : Except NoCommand Instr :=
  if c.rst then .error .resetCycle
  else if !c.cmdValid then .error .idleCycle
  else decodeCommand lmax c.cmdOp c.bus0 c.bus1 c.bus2

/-- The opcode of an instruction (R66). -/
def opcode : Instr → BitVec 2
  | .nop => 0b00#2
  | .gen => 0b01#2
  | .cfg _ _ _ => 0b10#2
  | .reserved => 0b11#2

/-- A cycle with `rst = 0` and `cmd_valid = 1`, the given opcode, and a configuration bus of zeros. -/
def bareCycle (lmax : Nat) (op : BitVec 2) : Cycle :=
  { rst := false, cmdValid := true, cmdOp := op,
    bus0 := RegBus.allZero lmax, bus1 := RegBus.allZero lmax, bus2 := RegBus.allZero lmax }

/-- The cycle that carries `i`: one cycle with `rst = 0` and `cmd_valid = 1` (R77). Where the command ignores the
configuration bus the encoder drives zeros. -/
def encode (lmax : Nat) : Instr → Cycle
  | .nop => bareCycle lmax (opcode .nop)
  | .gen => bareCycle lmax (opcode .gen)
  | .cfg c0 c1 c2 =>
    { rst := false, cmdValid := true, cmdOp := opcode (.cfg c0 c1 c2),
      bus0 := c0.drive lmax, bus1 := c1.drive lmax, bus2 := c2.drive lmax }
  | .reserved => bareCycle lmax (opcode .reserved)

/-- The cycle a word of spec/opcode_table.json stands for: its bits 1 and 0 are `cmd_op` (R64); the word has no other
bit that a port carries; the configuration bus, to which the table gives no bits, is all zeros (log entry 6). -/
def tableCycle (lmax nbits w : Nat) : Cycle :=
  bareCycle lmax (BitVec.ofNat 2 (w % 2 ^ nbits))

/-- The instruction the decoder reads from a word of spec/opcode_table.json, at `Config.lmax`. -/
def decodeTableWord (nbits w : Nat) : Option Instr :=
  match decode Config.lmax (tableCycle Config.lmax nbits w) with
  | .ok i => some i
  | .error _ => none

end Sys2Proof
end

