-- ==== Sys2Proof/Machine/State.lean ====
section
/-! DEFINITION. The state vector of R22 as plain data, the reasons a step can stop, and the state after reset (R44).
Beside the state of R22 the structure holds three fields of the MODEL's own: the build parameter `lmax` (R12), whether
a reset has happened since power-up (R45), and the cycles the host has still to present (R77). -/

namespace Sys2Proof.Machine

/-- One shift register of R22: its content `R[i]`, front first (R23); its length `LEN[i]` (R28); its tap mask
`TAP[i]`, bit `p-1` for tap position `p` (R29). -/
structure ShiftReg where
  content : Bits
  len     : Nat
  tap     : Bits
  deriving DecidableEq, Repr

/-- The codes of `CFG_CAUSE` (R118); its two bits hold no other value. -/
inductive CfgCause where
  | none
  | lenZero
  | lenTooLong
  | tapRange
  deriving DecidableEq, Repr

/-- The state of one block. -/
structure State where
  /-- MODEL's own: the parameter `LMAX` the block was built with (R12). No step writes it. -/
  lmax        : Nat
  /-- MODEL's own: a reset cycle has happened since power-up (R45). -/
  wasReset    : Bool
  /-- `R[0]`, `LEN[0]`, `TAP[0]` (R22, R24). -/
  decider     : ShiftReg
  /-- `R[1]`, `LEN[1]`, `TAP[1]` (R22, R24). -/
  first       : ShiftReg
  /-- `R[2]`, `LEN[2]`, `TAP[2]` (R22, R24). -/
  second      : ShiftReg
  /-- `READY` (R31). -/
  ready       : Bool
  /-- `ERR_NOTREADY`, sticky (R33). -/
  errNotReady : Bool
  /-- `ERR_ILLEGAL`, sticky (R34). -/
  errIllegal  : Bool
  /-- `CFG_CAUSE` (R35). -/
  cfgCause    : CfgCause
  /-- `CFG_REG` (R36). -/
  cfgReg      : BitVec 2
  /-- `BIT_OUT` (R37). -/
  bitOut      : Bool
  /-- `BIT_VALID` (R38). -/
  bitValid    : Bool
  /-- MODEL's own: the cycles the host presents from now on, the next one first (R77). -/
  pending     : List Cycle
  deriving DecidableEq, Repr

/-- Why the machine stops. -/
inductive Fault where
  /-- Raised by `step` when a cycle that is not a reset comes before the first reset since power-up: every state
  element is unspecified then (R45, I5); and by `State.observe` when nothing has reset the block by the end of the
  cycles it is to observe, so that there is no run (R143). Safe: the hardware goes on in some state, and the model claims nothing. -/
  | beforeFirstReset
  /-- Raised by `step` when the host presents no further cycle: the definition does not say what the block does after
  the last cycle of a run (R143). Safe: nothing is claimed of what comes after. -/
  | runEnded
  deriving DecidableEq, Repr

/-- What the machine does not take. -/
inductive Refusal where
  /-- Raised by an arm of `exec` whose instruction has no meaning yet; no arm does so in this model. Safe. -/
  | notModelled (mnemonic : String)
  /-- Raised by `step` for a `CFG` cycle whose configuration bus does not have the widths of R63: no host can drive
  such a cycle. Safe: it shuts out no cycle of the hardware. -/
  | busWidth
  deriving DecidableEq, Repr

/-- An empty register: no content, length 0, no taps (R44). -/
def ShiftReg.empty (lmax : Nat) : ShiftReg :=
  { content := [], len := 0, tap := zeros lmax }

/-- The state after reset (R44) of a block built with this `LMAX`, the host having the cycles `pending` still to
present. -/
def State.resetOf (lmax : Nat) (pending : List Cycle) : State :=
  { lmax := lmax
    wasReset := true
    decider := ShiftReg.empty lmax
    first := ShiftReg.empty lmax
    second := ShiftReg.empty lmax
    ready := false
    errNotReady := false
    errIllegal := false
    cfgCause := .none
    cfgReg := 0b00#2
    bitOut := false
    bitValid := false
    pending := pending }

/-- The machine right after reset (R44, R139), with no further cycle presented. -/
def State.reset : State :=
  State.resetOf Config.lmax []

end Sys2Proof.Machine
end

