-- ==== Sys2Proof/Machine/Ops.lean ====
section
/-! DEFINITION. The named operations on the state that the meanings share: reading and writing a register, the clock
primitive (R81), recording an error (R119), reset (R137), and taking the next cycle from the host. The block has no
memory (R46), so there is no memory operation; it has no trap entry and no trap return (R126, R127), so `raise` is the
whole of what an error does. -/

namespace Sys2Proof.Machine

/-- Register `i` (R24). -/
def State.reg (s : State) : RegIdx → ShiftReg
  | .r0 => s.decider
  | .r1 => s.first
  | .r2 => s.second

/-- Write register `i`. -/
def State.setReg (s : State) (i : RegIdx) (r : ShiftReg) : State :=
  match i with
  | .r0 => { s with decider := r }
  | .r1 => { s with first := r }
  | .r2 => { s with second := r }

/-- The index of a register as `CFG_REG` holds it (R36). -/
def regCode : RegIdx → BitVec 2
  | .r0 => 0b00#2
  | .r1 => 0b01#2
  | .r2 => 0b10#2

/-- The tap positions of a register, 1-indexed: `p` in `1..LEN` with `TAP[p-1] = 1` (R29, R72). -/
def ShiftReg.tapPositions (r : ShiftReg) : List Nat :=
  (List.range' 1 r.len).filter fun p => bitAt r.tap (p - 1)

/-- `Idx`, the back-relative tap indices `L - p`, counted from the front of the content (R30, R72). -/
def ShiftReg.tapIndices (r : ShiftReg) : List Nat :=
  r.tapPositions.map fun p => r.len - p

/-- The clocked output: the front bit before the step (R82). -/
def ShiftReg.front (r : ShiftReg) : Bool :=
  bitAt r.content 0

/-- The feedback bit: the parity of the bits at the tap indices, of the content before the front is removed (R83). -/
def ShiftReg.feedback (r : ShiftReg) : Bool :=
  parity (r.tapIndices.map fun j => bitAt r.content j)

/-- The register after one clock: the front dropped, the feedback bit appended at the back (R81, R84). -/
def ShiftReg.clocked (r : ShiftReg) : ShiftReg :=
  { r with content := r.content.drop 1 ++ [r.feedback] }

/-- `Clock(i)` (R81): the clocked output, and the state in which register `i` has made its step. It is internal:
only `GEN` uses it (R90). -/
def State.clock (s : State) (i : RegIdx) : Bool × State :=
  ((s.reg i).front, s.setReg i (s.reg i).clocked)

/-- The five errors the block reports (R117); a configuration error names the register whose check failed (R120). -/
inductive BlockError where
  | lenZero (i : RegIdx)
  | lenTooLong (i : RegIdx)
  | tapRange (i : RegIdx)
  | notReady
  | illegal
  deriving DecidableEq, Repr

/-- `raise E(info)` (R119): write the status fields that R117 gives for the error, and nothing else. -/
def State.raise (s : State) : BlockError → State
  | .lenZero i => { s with cfgCause := .lenZero, cfgReg := regCode i }
  | .lenTooLong i => { s with cfgCause := .lenTooLong, cfgReg := regCode i }
  | .tapRange i => { s with cfgCause := .tapRange, cfgReg := regCode i }
  | .notReady => { s with errNotReady := true }
  | .illegal => { s with errIllegal := true }

/-- `BIT_VALID <- 0`, which every command but a producing `GEN` does (R38). -/
def State.clearBitValid (s : State) : State :=
  { s with bitValid := false }

/-- A reset cycle (R137): every element of R22 takes the value of R44, whatever it held. The parameter `LMAX` and the
cycles the host has still to present are not the block's, and stay. -/
def State.applyReset (s : State) : State :=
  State.resetOf s.lmax s.pending

/-- Take the next cycle the host presents, if there is one, and the state that no longer has it pending. -/
def State.takeCycle (s : State) : Option (Cycle × State) :=
  match s.pending with
  | [] => none
  | c :: rest => some (c, { s with pending := rest })

/-- Put a cycle in front of those the host has still to present, on a block that may take it: a command runs only on a
block that has been reset (R45), so the mark for that is set. -/
def State.present (s : State) (c : Cycle) : State :=
  { s with wasReset := true, pending := c :: s.pending }

end Sys2Proof.Machine
end

