-- ==== Sys2Proof/Machine/Operands.lean ====
section
/-! DEFINITION. The operand forms of `CFG` (R67 to R70) and the checks on them (R92, R93). No other command has an
operand. -/

namespace Sys2Proof.Machine

/-- The fill of a register: the first `L` bits of the fill bus, bit 0 the front; the bits at `L` and above are ignored
(R69, R96). -/
def fillOperand (c : RegConfig) : Bits :=
  c.fill.take c.len

/-- The register a checked operand set configures (R94). -/
def configuredReg (c : RegConfig) : ShiftReg :=
  { content := fillOperand c, len := c.len, tap := c.tap }

/-- The three checks on register `i` in their order, the first that fails (R92, R93). -/
def checkReg (lmax : Nat) (i : RegIdx) (c : RegConfig) : Option BlockError :=
  if c.len = 0 then some (.lenZero i)
  else if c.len > lmax then some (.lenTooLong i)
  else if sliceNonzero c.tap c.len then some (.tapRange i)
  else none

/-- The first failing check over the three registers, in the order 0, 1, 2 (R93). -/
def firstError (e0 e1 e2 : Option BlockError) : Option BlockError :=
  match e0, e1, e2 with
  | some e, _, _ => some e
  | none, some e, _ => some e
  | none, none, e => e

/-- The error a `CFG` with these operands raises, if any (R91, R93). -/
def checkCfg (lmax : Nat) (c0 c1 c2 : RegConfig) : Option BlockError :=
  firstError (checkReg lmax .r0 c0) (checkReg lmax .r1 c1) (checkReg lmax .r2 c2)

end Sys2Proof.Machine
end

