-- ==== Sys2Proof/Machine/Configure.lean ====
section
/-! DEFINITION. `CFG` (spec/40_shift_register.md, section 2): check all three registers, then write all three or
none. -/

namespace Sys2Proof.Machine

/-- The commit of a `CFG` whose checks all pass (R91, R94). -/
def State.commit (s : State) (c0 c1 c2 : RegConfig) : State :=
  { s with
    decider := configuredReg c0
    first := configuredReg c1
    second := configuredReg c2
    ready := true
    cfgCause := .none
    cfgReg := 0b00#2 }

/-- `CFG` (R91): the first failing check is raised and nothing else changes (R95), or the whole configuration is
committed; either way `BIT_VALID <- 0`. -/
def execCfg (c0 c1 c2 : RegConfig) (s : State) : Host.Outcome State Fault Refusal :=
  .next
    (match checkCfg s.lmax c0 c1 c2 with
      | some e => s.raise e
      | none => s.commit c0 c1 c2).clearBitValid

end Sys2Proof.Machine
end

