-- ==== Sys2Proof/Machine/Control.lean ====
section
/-! DEFINITION. The control commands (spec/42_control.md): `NOP`, the reserved opcode, and the idle cycle. -/

namespace Sys2Proof.Machine

/-- `NOP` (R113): `BIT_VALID <- 0`, and nothing else, in any state. -/
def execNop (s : State) : Host.Outcome State Fault Refusal :=
  .next s.clearBitValid

/-- The reserved opcode (R115): it raises `ILLEGAL` and clears `BIT_VALID`; the machine goes on (R119). -/
def execReserved (s : State) : Host.Outcome State Fault Refusal :=
  .next (s.raise .illegal).clearBitValid

/-- A cycle with `rst = 0` and `cmd_valid = 0`: exactly the effect of `NOP` (R114). -/
def State.idle (s : State) : State :=
  s.clearBitValid

end Sys2Proof.Machine
end

