-- ==== Sys2Proof/Machine/Generate.lean ====
section
/-! DEFINITION. `GEN` (spec/41_generate.md): the combiner, and the clock control around it. -/

namespace Sys2Proof.Machine

/-- The combiner (R2, R109, R112): from the three clocked outputs the output bit, and the register that gets an extra
clock, if one does. -/
def combine (d f s : Bool) : Bool × Option RegIdx :=
  if f = s then (d, none)
  else if d then (f, some .r2)
  else (s, some .r1)

/-- The extra clock, whose output bit is discarded (R106). -/
def State.extraClock (s : State) : Option RegIdx → State
  | none => s
  | some i => (s.clock i).2

/-- `GEN` on a configured block (R100, from step 1 on): one clock of each register, in the order decider, first,
second; the combiner; its extra clock, on the content step 1 left; `BIT_OUT` and `BIT_VALID`. -/
def State.generate (s : State) : State :=
  let d := s.clock .r0
  let f := d.2.clock .r1
  let g := f.2.clock .r2
  let o := combine d.1 f.1 g.1
  { g.2.extraClock o.2 with bitOut := o.1, bitValid := true }

/-- `GEN` (R100): on a block that is not `READY` it is refused, which is a defined effect (R101, R121): it raises
`NOTREADY`, clears `BIT_VALID` and changes nothing else. -/
def execGen (s : State) : Host.Outcome State Fault Refusal :=
  .next (if s.ready then s.generate else (s.raise .notReady).clearBitValid)

end Sys2Proof.Machine
end

