-- ==== Sys2Proof/Machine/Dispatch.lean ====
section
/-! DEFINITION. One arm per constructor of `Instr`. -/

namespace Sys2Proof.Machine

/-- The effect of one accepted command: an atomic step (R53). -/
def exec (i : Instr) (s : State) : Host.Outcome State Fault Refusal :=
  match i with
  | .nop => Sys2Proof.Machine.execNop s
  | .gen => Sys2Proof.Machine.execGen s
  | .cfg c0 c1 c2 => Sys2Proof.Machine.execCfg c0 c1 c2 s
  | .reserved => Sys2Proof.Machine.execReserved s

end Sys2Proof.Machine
end

