-- ==== Sys2Proof/Machine/Step.lean ====
section
/-! DEFINITION. One rising edge of `clk` (R144): the block samples the cycle the host presents, and takes its whole
effect at that edge. -/

namespace Sys2Proof.Machine

/-- One cycle. A reset has priority over everything else in the cycle (R124, R138). Before the first reset no other
cycle has a stated effect (R45). A cycle without a command acts as `NOP` (R65, R114). When the host presents no
further cycle the run has ended (R143). -/
def step (s : State) : Host.Outcome State Fault Refusal :=
  match s.takeCycle with
  | none => .fault .runEnded
  | some (c, t) =>
    match decode t.lmax c with
    | .error .resetCycle => .next t.applyReset
    | .error .idleCycle => if t.wasReset then .next t.idle else .fault .beforeFirstReset
    | .error .busWidth => .refused .busWidth
    | .ok i => if t.wasReset then exec i t else .fault .beforeFirstReset

/-- `s` with the cycle that a word of spec/opcode_table.json stands for presented next, before the cycles that were
pending (log entry 6). -/
def State.withFetchWord (s : State) (nbits w : Nat) : State :=
  s.present (tableCycle s.lmax nbits w)

end Sys2Proof.Machine
end

