-- ==== Sys2Proof/Machine/Assembler.lean ====
section
/-! DEFINITION. The host's side of the command port: the conversion of a configuration in list form (R71), and the
assembler (R75, R76, R77), from the text of a line to the cycles it stands for. The block has no part in it. -/

namespace Sys2Proof.Machine

/-- The configuration of one register in the list form of R71: its fill, front first, and its tap positions,
1-indexed, in order, repeats allowed. -/
structure ListReg where
  fill : Bits
  taps : List Nat
  deriving DecidableEq, Repr

/-- The tap mask of a tap list: bit `p-1` tells whether `p` occurs an odd number of times (R71). -/
def tapMask (lmax : Nat) (taps : List Nat) : Bits :=
  (List.range lmax).map fun k => taps.count (k + 1) % 2 == 1

/-- The fill bus of a fill: element `j` on bit `j`, all other bits 0 (R71). -/
def fillBus (lmax : Nat) (fill : Bits) : Bits :=
  (List.range lmax).map fun j => bitAt fill j

/-- The bus operands of one register in list form (R71). -/
def ListReg.operands (lmax : Nat) (r : ListReg) : RegConfig :=
  { len := r.fill.length, fill := fillBus lmax r.fill, tap := tapMask lmax r.taps }

/-- Whether the host must turn the list form away rather than drive it: a tap position outside `1..L` (R71) or above
`LMAX`, or a fill longer than the length bus can tell (R75). -/
def ListReg.unencodable (lmax : Nat) (r : ListReg) : Bool :=
  r.taps.any (fun p => p < 1 || p > r.fill.length || p > lmax) || decide (r.fill.length > 2 ^ lenWidth lmax - 1)

/-- The block's checks, in the block's order, on the list itself (R71, R93). -/
def ListReg.error (lmax : Nat) (i : RegIdx) (r : ListReg) : Option BlockError :=
  if r.fill.length = 0 then some (.lenZero i)
  else if r.fill.length > lmax then some (.lenTooLong i)
  else if r.taps.any (fun p => p < 1 || p > r.fill.length) then some (.tapRange i)
  else none

/-- The error the block would give to the three registers in list form: the first failing check (R71). -/
def listError (lmax : Nat) (r0 r1 r2 : ListReg) : Option BlockError :=
  firstError (r0.error lmax .r0) (r1.error lmax .r1) (r2.error lmax .r2)

/-- From the list form to the `CFG` the host issues, or the error it reports instead of issuing one (R71). -/
def convertList (lmax : Nat) (r0 r1 r2 : ListReg) : Except BlockError Instr :=
  let command := Instr.cfg (r0.operands lmax) (r1.operands lmax) (r2.operands lmax)
  if r0.unencodable lmax || r1.unencodable lmax || r2.unencodable lmax then
    match listError lmax r0 r1 r2 with
    | some e => .error e
    | none => .ok command
  else .ok command

/-- The bus values `CFG.RAW` gives one register (R75). -/
structure RawReg where
  len  : Nat
  fill : Nat
  tap  : Nat
  deriving DecidableEq, Repr

/-- Whether the values are bus values: each fits its port (R63). -/
def RawReg.fits (lmax : Nat) (r : RawReg) : Bool :=
  decide (r.len < 2 ^ lenWidth lmax) && decide (r.fill < 2 ^ lmax) && decide (r.tap < 2 ^ lmax)

/-- The operands the bus values stand for. -/
def RawReg.operands (lmax : Nat) (r : RawReg) : RegConfig :=
  { len := r.len, fill := natToBits lmax r.fill, tap := natToBits lmax r.tap }

/-- A line of assembler (R75, R76). -/
inductive AsmLine where
  /-- No command: a blank line or a comment alone. R75 does not say whether there may be one; that it is a line is a DESIGN
  CHOICE (log entry 12). -/
  | blank
  | nop
  | gen
  | cfg (r0 r1 r2 : ListReg)
  | cfgRaw (r0 r1 r2 : RawReg)
  | keystream (n : Nat)
  | idle
  | reset
  deriving DecidableEq, Repr

/-- Why the assembler gives no cycles. -/
inductive AsmError where
  /-- The line is none of the spellings of R75 and R76. -/
  | badLine
  /-- A value of `CFG.RAW` does not fit its port. -/
  | rawValue
  /-- A list form that cannot be encoded, with the error the block would give (R75). -/
  | refused (e : BlockError)
  deriving DecidableEq, Repr

/-- The cycles a line stands for (R75, R76, R77). A line with no command stands for none: DESIGN CHOICE (log entry 12). -/
def assembleLine (lmax : Nat) : AsmLine → Except AsmError (List Cycle)
  | .blank => .ok []
  | .nop => .ok [encode lmax .nop]
  | .gen => .ok [encode lmax .gen]
  | .cfg r0 r1 r2 =>
    match convertList lmax r0 r1 r2 with
    | .ok i => .ok [encode lmax i]
    | .error e => .error (.refused e)
  | .cfgRaw r0 r1 r2 =>
    if r0.fits lmax && r1.fits lmax && r2.fits lmax then
      .ok [encode lmax (.cfg (r0.operands lmax) (r1.operands lmax) (r2.operands lmax))]
    else .error .rawValue
  | .keystream n => .ok (List.replicate n (encode lmax .gen))
  | .idle => .ok [{ bareCycle lmax 0b00#2 with cmdValid := false }]
  | .reset => .ok [{ bareCycle lmax 0b00#2 with rst := true, cmdValid := false }]

/-- The tokens of a line. -/
inductive Token where
  | word (w : List Char)
  | num (n : Nat)
  | lbracket
  | rbracket
  | slash
  | comma
  | equals
  deriving DecidableEq, Repr

/-- The value of a digit, decimal or hexadecimal. -/
def digitValue (c : Char) : Nat :=
  if c.isDigit then c.toNat - '0'.toNat
  else if 'a' ≤ c ∧ c ≤ 'f' then c.toNat - 'a'.toNat + 10
  else if 'A' ≤ c ∧ c ≤ 'F' then c.toNat - 'A'.toNat + 10
  else 16

/-- A number in the given base, if every character is a digit of it. -/
def numberIn (base : Nat) : Nat → List Char → Option Nat
  | acc, [] => some acc
  | acc, c :: cs => if digitValue c < base then numberIn base (acc * base + digitValue c) cs else none

/-- What a run of letters, digits and dots is: a number, hexadecimal after `0x`, or a word (DESIGN CHOICE, log
entry 12: a number without `0x` is decimal). -/
def wordToken : List Char → Option Token
  | '0' :: 'x' :: d :: ds => (numberIn 16 0 (d :: ds)).map .num
  | [] => none
  | c :: cs => if c.isDigit then (numberIn 10 0 (c :: cs)).map .num else some (.word (c :: cs))

/-- Put the token of a collected run, if there is a run, in front of the tokens that follow it. -/
def flushWord (run : List Char) (rest : Option (List Token)) : Option (List Token) :=
  match run, rest with
  | [], ts => ts
  | _, none => none
  | cs, some ts => (wordToken cs).map fun t => t :: ts

/-- The tokens of a line; `;` starts a comment (R75). DESIGN CHOICE (log entry 12): blanks and tabs are free between
tokens, and a character of no token is an error. `run` holds the letters, digits and dots collected so far. -/
def tokens (run : List Char) : List Char → Option (List Token)
  | [] => flushWord run (some [])
  | c :: cs =>
    if c = ';' then flushWord run (some [])
    else if c.isAlphanum || c = '.' then tokens (run ++ [c]) cs
    else if c = ' ' || c = '\t' then flushWord run (tokens [] cs)
    else
      let punctuation : Option Token :=
        if c = '[' then some .lbracket
        else if c = ']' then some .rbracket
        else if c = '/' then some .slash
        else if c = ',' then some .comma
        else if c = '=' then some .equals
        else none
      match punctuation, tokens [] cs with
      | some t, some ts => flushWord run (some (t :: ts))
      | _, _ => none

/-- The numbers up to the closing bracket, at least one, and what follows. -/
def numbersToBracket : List Token → Option (List Nat × List Token)
  | .num n :: .rbracket :: ts => some ([n], ts)
  | .num n :: .comma :: ts => (numbersToBracket ts).map fun r => (n :: r.1, r.2)
  | _ => none

/-- A bracketed list of numbers. -/
def numberList : List Token → Option (List Nat × List Token)
  | .lbracket :: .rbracket :: ts => some ([], ts)
  | .lbracket :: ts => numbersToBracket ts
  | _ => none

/-- `<fill>/<taps>` (R75). -/
def listReg (ts : List Token) : Option (ListReg × List Token) :=
  match numberList ts with
  | some (bits, .slash :: ts') =>
    match numberList ts' with
    | some (taps, rest) =>
      if bits.all (fun b => b < 2) then some ({ fill := bits.map (fun b => b == 1), taps := taps }, rest) else none
    | none => none
  | _ => none

/-- `name=value` (R75). -/
def rawField (name : List Char) : List Token → Option (Nat × List Token)
  | .word w :: .equals :: .num n :: ts => if w = name then some (n, ts) else none
  | _ => none

/-- A comma. -/
def afterComma : List Token → Option (List Token)
  | .comma :: ts => some ts
  | _ => none

/-- `len<d>=…, fill<d>=…, tap<d>=…` (R75). -/
def rawReg (d : Char) (ts : List Token) : Option (RawReg × List Token) := do
  let (len, ts) ← rawField ['l', 'e', 'n', d] ts
  let ts ← afterComma ts
  let (fill, ts) ← rawField ['f', 'i', 'l', 'l', d] ts
  let ts ← afterComma ts
  let (tap, ts) ← rawField ['t', 'a', 'p', d] ts
  some ({ len := len, fill := fill, tap := tap }, ts)

/-- The three registers of a `CFG`, after the mnemonic. -/
def parseCfg (ts : List Token) : Option AsmLine := do
  let (r0, ts) ← listReg ts
  let ts ← afterComma ts
  let (r1, ts) ← listReg ts
  let ts ← afterComma ts
  let (r2, ts) ← listReg ts
  if ts = [] then some (.cfg r0 r1 r2) else none

/-- The nine values of a `CFG.RAW`, after the mnemonic. -/
def parseRaw (ts : List Token) : Option AsmLine := do
  let (r0, ts) ← rawReg '0' ts
  let ts ← afterComma ts
  let (r1, ts) ← rawReg '1' ts
  let ts ← afterComma ts
  let (r2, ts) ← rawReg '2' ts
  if ts = [] then some (.cfgRaw r0 r1 r2) else none

/-- The spellings of R75 and R76. DESIGN CHOICE (log entry 12): a line with no command, blank or a comment alone, which
R75 leaves open, is accepted and is no error; the spellings are taken letter for letter. -/
def parseLine : List Token → Option AsmLine
  | [] => some .blank
  | [.word w] =>
    if w = ['N', 'O', 'P'] then some .nop
    else if w = ['G', 'E', 'N'] then some .gen
    else if w = ['I', 'D', 'L', 'E'] then some .idle
    else if w = ['R', 'E', 'S', 'E', 'T'] then some .reset
    else none
  | .word w :: ts =>
    if w = ['C', 'F', 'G'] then parseCfg ts
    else if w = ['C', 'F', 'G', '.', 'R', 'A', 'W'] then parseRaw ts
    else if w = ['K', 'E', 'Y', 'S', 'T', 'R', 'E', 'A', 'M'] then
      match ts with
      | [.num n] => some (.keystream n)
      | _ => none
    else none
  | _ => none

/-- The cycles a line of text stands for. -/
def assembleText (lmax : Nat) (line : List Char) : Except AsmError (List Cycle) :=
  match (tokens [] line).bind parseLine with
  | some l => assembleLine lmax l
  | none => .error .badLine

end Sys2Proof.Machine
end

