-- ==== Sys2Proof/Machine/Flags.lean ====
section
/-! DEFINITION. The status word (R32). The block has no arithmetic flags (R40). -/

namespace Sys2Proof.Machine

/-- The two bits of `CFG_CAUSE` (R118). -/
def causeCode : CfgCause → BitVec 2
  | .none => 0b00#2
  | .lenZero => 0b01#2
  | .lenTooLong => 0b10#2
  | .tapRange => 0b11#2

/-- `STATUS`, from bit 7 down: `CFG_REG` (7:6), `CFG_CAUSE` (5:4), reserved and read as 0 (3), `ERR_ILLEGAL` (2),
`ERR_NOTREADY` (1), `READY` (0) (R32). -/
def State.status (s : State) : BitVec 8 :=
  s.cfgReg ++ causeCode s.cfgCause ++ 0#1 ++ BitVec.ofBool s.errIllegal ++ BitVec.ofBool s.errNotReady
    ++ BitVec.ofBool s.ready

end Sys2Proof.Machine
end

