-- ==== Sys2Proof/Machine/Ports.lean ====
section
/-! DEFINITION. The output ports (R63, R78 to R80). They are functions of the state alone and reading one changes
nothing (R54): every output shows the state an edge left, until the next edge (R144). -/

namespace Sys2Proof.Machine

/-- `ri_q` on `LMAX` bits: the content, front at bit 0, and 0 at and above the length (R78). -/
def contentPort (lmax : Nat) (r : ShiftReg) : Bits :=
  (List.range lmax).map fun j => if j < r.len then bitAt r.content j else false

/-- `leni_q` on `W_LEN` bits (R79). -/
def lenPort (lmax : Nat) (r : ShiftReg) : Bits :=
  natToBits (lenWidth lmax) r.len

/-- `tapi_q` on `LMAX` bits, bit `p-1` for position `p` (R79). -/
def tapPort (lmax : Nat) (r : ShiftReg) : Bits :=
  (List.range lmax).map fun j => bitAt r.tap j

/-- The value of every output port. -/
structure Ports where
  bitOut   : Bool
  bitValid : Bool
  status   : BitVec 8
  r0q      : Bits
  r1q      : Bits
  r2q      : Bits
  len0q    : Bits
  len1q    : Bits
  len2q    : Bits
  tap0q    : Bits
  tap1q    : Bits
  tap2q    : Bits
  deriving DecidableEq, Repr

/-- What the output ports show (R78, R79, R80). Before the first reset a port read gives no value (R45). -/
def State.ports (s : State) : Option Ports :=
  if s.wasReset then
    some
      { bitOut := s.bitOut, bitValid := s.bitValid, status := s.status
        r0q := contentPort s.lmax s.decider, r1q := contentPort s.lmax s.first, r2q := contentPort s.lmax s.second
        len0q := lenPort s.lmax s.decider, len1q := lenPort s.lmax s.first, len2q := lenPort s.lmax s.second
        tap0q := tapPort s.lmax s.decider, tap1q := tapPort s.lmax s.first, tap2q := tapPort s.lmax s.second }
  else none

end Sys2Proof.Machine
end

