-- ==== Sys2Proof/Machine/Run.lean ====
section
/-! DEFINITION. A run and what is observed of it (R143, R49). A run is the finite sequence of cycles the host presents;
it starts at power-up, where nothing is known of the block, and its first cycle is a reset. -/

namespace Sys2Proof.Machine

/-- The cycles of a run one after the other, each with the state its edge left; at most `fuel` of them. A cycle that
stops the machine stops the run. -/
def trace : Nat → State → Host.Outcome (List (Cycle × State)) Fault Refusal
  | 0, _ => .next []
  | fuel + 1, s =>
    match s.takeCycle, step s with
    | none, _ => .next []
    | some _, .fault r => .fault r
    | some _, .refused r => .refused r
    | some (c, _), .next t =>
      match trace fuel t with
      | .next l => .next ((c, t) :: l)
      | .fault r => .fault r
      | .refused r => .refused r

/-- Whether a cycle carries a `CFG` command. -/
def carriesCfg (lmax : Nat) (c : Cycle) : Bool :=
  match decode lmax c with
  | .ok (.cfg _ _ _) => true
  | _ => false

/-- Whether a cycle carries a `GEN` command. -/
def carriesGen (lmax : Nat) (c : Cycle) : Bool :=
  match decode lmax c with
  | .ok .gen => true
  | _ => false

/-- The bit a state shows as produced by the command just accepted, if one was (R116). -/
def State.producedBit (s : State) : Option Bool :=
  if s.bitValid then some s.bitOut else none

/-- Every bit a trace produced, in order (R143). -/
def producedBits (l : List (Cycle × State)) : Bits :=
  l.filterMap fun e => e.2.producedBit

/-- Whether an entry of a trace is a `CFG` that succeeded: its result is `NONE` (R118). -/
def cfgSucceeded (e : Cycle × State) : Bool :=
  carriesCfg e.2.lmax e.1 && decide (e.2.cfgCause = .none)

/-- The keystream: the bits produced since the last `CFG` that succeeded, in the order their `GEN`s were accepted
(R49). Nothing but a successful `CFG` starts it anew. A trace without one begins after it (log entry 13). -/
def keystream (l : List (Cycle × State)) : Bits :=
  l.foldl (fun bits e => if cfgSucceeded e then [] else bits ++ e.2.producedBit.toList) []

/-- What R143 says is observed of a run. -/
structure Observation where
  /-- The `BIT_OUT` values, one per `GEN` that produced a bit, in order. -/
  bits      : Bits
  /-- The `STATUS` word after each `CFG`, in order. -/
  cfgStatus : List (BitVec 8)
  /-- The final state. -/
  final     : State
  deriving DecidableEq, Repr

/-- The state a trace that began in `s` ends in. -/
def finalState (s : State) (l : List (Cycle × State)) : State :=
  (l.getLast?.map fun e => e.2).getD s

/-- What is observed of the cycles a state has pending. A block that has not been reset by then gives no value to
observe (R45): that is so only where no cycle came at all. -/
def State.observe (s : State) : Host.Outcome Observation Fault Refusal :=
  match trace s.pending.length s with
  | .next l =>
    if (finalState s l).wasReset then
      .next
        { bits := producedBits l
          cfgStatus := (l.filter fun e => carriesCfg e.2.lmax e.1).map fun e => e.2.status
          final := finalState s l }
    else .fault .beforeFirstReset
  | .fault r => .fault r
  | .refused r => .refused r

/-- The block just powered up, with whatever contents `s` has (R45: every element is unspecified), and a host that
presents `cycles`. -/
def State.powerUp (s : State) (cycles : List Cycle) : State :=
  { s with wasReset := false, pending := cycles }

/-- The observation of a run (R143). Without a reset as its first cycle, and without any cycle, there is no run and
nothing is observed: a fault. -/
def observeRun (s : State) (cycles : List Cycle) : Host.Outcome Observation Fault Refusal :=
  (s.powerUp cycles).observe

end Sys2Proof.Machine
end

