-- ==== Sys2Proof/Safety.lean ====
section
/-! DEFINITION. What holds of every state a run reaches after its first reset, and when a run is without a host
error. -/

namespace Sys2Proof.Machine

/-- What every register satisfies: its content has exactly `LEN` bits (R25), `LEN` is at most `LMAX` (R14), its mask
has `LMAX` bits and none of them at or above `LEN` is set (R29). -/
abbrev ShiftReg.wf (lmax : Nat) (r : ShiftReg) : Prop :=
  r.content.length = r.len ∧ r.len ≤ lmax ∧ r.tap.length = lmax ∧ sliceNonzero r.tap r.len = false

/-- The invariant of a block that has been reset. The last three lines: `LEN` is 0 exactly while `READY = 0` (R28), for
each register; `CFG_REG` is never 3 (R36), and is 0 when `CFG_CAUSE` is 0 (R36); no bit stands on the output
of a block that never was `READY` (R37, R38). -/
abbrev State.Inv (s : State) : Prop :=
  1 ≤ s.lmax ∧ s.wasReset = true
    ∧ s.decider.wf s.lmax ∧ s.first.wf s.lmax ∧ s.second.wf s.lmax
    ∧ (s.decider.len = 0 ↔ s.ready = false) ∧ (s.first.len = 0 ↔ s.ready = false)
    ∧ (s.second.len = 0 ↔ s.ready = false)
    ∧ s.cfgReg ≠ 0b11#2 ∧ (s.cfgCause = .none → s.cfgReg = 0b00#2)
    ∧ (s.ready = false → s.bitOut = false ∧ s.bitValid = false)

/-- The host has broken its duties since the last reset: a `GEN` came before a successful `CFG`, or the reserved
opcode came (R129). -/
def State.hostError (s : State) : Bool :=
  s.errNotReady || s.errIllegal

/-- The premise R129 gives a claim about a run: the run comes to its end, and `ERR_NOTREADY` and `ERR_ILLEGAL` are 0
there. A `CFG` that was rejected is a defined outcome and no error of the run (R129). -/
def EndsClean (s : State) (cycles : List Cycle) : Prop :=
  ∃ o, observeRun s cycles = .next o ∧ o.final.hostError = false

/-- A run (R143) in which the host never broke its duties: neither bit is set after any of its cycles. A reset in the middle
of a run clears the bits (R127), so this says more than `EndsClean` (log entry 7). -/
def CleanRun (s : State) (cycles : List Cycle) : Prop :=
  ∃ o l, observeRun s cycles = .next o ∧ trace cycles.length (s.powerUp cycles) = .next l
    ∧ ∀ e ∈ l, e.2.hostError = false

end Sys2Proof.Machine
end

