-- ==== Sys2Proof/Certificates/Slice0/Obligations.lean ====
section
/-! DEFINITION. What is claimed of the model, one statement a definition. Unless a statement says otherwise it holds
for every value of the parameter `LMAX` (`s.lmax`). -/

open Sys2Proof Sys2Proof.Machine

/-! ## Reset, power-up, and the cycle -/

/-- R44, R124, R138. A cycle with `rst = 1` puts every state element at its reset value, whatever the other inputs
carry and whatever the state was, before the first reset too. -/
def Obligations.ResetCycleClearsEveryElement : Prop :=
  ∀ (s : State) (c : Cycle) (rest : List Cycle), s.pending = c :: rest → c.rst = true →
    ∃ t p, step s = .next t ∧ t.ports = some p
      ∧ (∀ i, (t.reg i).content = [] ∧ (t.reg i).len = 0 ∧ (t.reg i).tap = zeros s.lmax)
      ∧ t.ready = false ∧ t.errNotReady = false ∧ t.errIllegal = false
      ∧ t.cfgCause = .none ∧ t.cfgReg = 0b00#2 ∧ t.bitOut = false ∧ t.bitValid = false
      ∧ t.status = 0x00#8
      ∧ p.r0q = zeros s.lmax ∧ p.r1q = zeros s.lmax ∧ p.r2q = zeros s.lmax
      ∧ t.lmax = s.lmax ∧ t.wasReset = true ∧ t.pending = rest

/-- R45, read with I5 (log entry 2): before the first reset a cycle that is not a reset stops the machine with a fault, and a port
read gives no value. The premise on the buses only says that the cycle can be driven. -/
def Obligations.NothingBeforeFirstReset : Prop :=
  ∀ (s : State) (c : Cycle) (rest : List Cycle), s.wasReset = false →
    s.ports = none
      ∧ (s.pending = c :: rest → c.rst = false →
          c.bus0.fits s.lmax = true → c.bus1.fits s.lmax = true → c.bus2.fits s.lmax = true →
          step s = .fault .beforeFirstReset)

/-- R143, R45, R137: what is observed of a run that starts with a reset does not depend on what the block held at
power-up. -/
def Obligations.PowerUpContentsNeverMatter : Prop :=
  ∀ (s s' : State) (c : Cycle) (rest : List Cycle), s.lmax = s'.lmax → c.rst = true →
    observeRun s (c :: rest) = observeRun s' (c :: rest)

/-- R143: the definition says nothing of what comes after the last cycle of a run. That the model stops there with a
fault is its own choice (log entry 3). -/
def Obligations.NoCycleNoStep : Prop :=
  ∀ s : State, s.pending = [] → step s = .fault .runEnded

/-- R57, R64, R144: when the cycle at the port decodes to a command, which is then well formed, one step of a block
that has been reset is that command's effect on the state that no longer has the cycle pending; nothing else is
around it. -/
def Obligations.StepRunsTheDecodedCommand : Prop :=
  ∀ (s : State) (c : Cycle) (rest : List Cycle) (i : Instr),
    s.pending = c :: rest → s.wasReset = true → decode s.lmax c = .ok i →
      i.wellFormed s.lmax = true ∧ step s = exec i { s with pending := rest }

/-- R114: a cycle with `rst = 0` and `cmd_valid = 0` has the effect of `NOP`, whatever `cmd_op` and the configuration
bus carry. -/
def Obligations.IdleCycleActsAsNop : Prop :=
  ∀ (s : State) (c : Cycle) (rest : List Cycle),
    s.pending = c :: rest → s.wasReset = true → c.rst = false → c.cmdValid = false →
      step s = exec .nop { s with pending := rest }
        ∧ step s = .next { s with pending := rest, bitValid := false }

/-- R12, R77, R144: a step never changes `LMAX`, and takes exactly one cycle from the host. That the block counts as
reset after every step that answers a next state is the model's clause: it follows from the fault before the first
reset, idle cycles included, which the model takes from R45 and I5 (log entry 2). -/
def Obligations.StepTakesOneCycleAndKeepsLmax : Prop :=
  ∀ s t : State, step s = .next t → t.lmax = s.lmax ∧ t.wasReset = true ∧ ∃ c, s.pending = c :: t.pending

/-! ## Encoding -/

/-- R66: the opcode map. `NOP`, `GEN` and the reserved opcode decode whatever the configuration bus carries; `CFG`
takes its operands from the bus, the length as an unsigned number, the fill and the tap mask wire by wire. -/
def Obligations.OpcodeMapDecodes : Prop :=
  ∀ (lmax : Nat) (c : Cycle), c.rst = false → c.cmdValid = true →
    (c.cmdOp = 0b00#2 → decode lmax c = .ok .nop)
      ∧ (c.cmdOp = 0b01#2 → decode lmax c = .ok .gen)
      ∧ (c.cmdOp = 0b11#2 → decode lmax c = .ok .reserved)
      ∧ (c.cmdOp = 0b10#2 →
          c.bus0.fits lmax = true → c.bus1.fits lmax = true → c.bus2.fits lmax = true →
          decode lmax c =
            .ok (.cfg
              { len := bitsToNat c.bus0.len, fill := c.bus0.fill, tap := c.bus0.tap }
              { len := bitsToNat c.bus1.len, fill := c.bus1.fill, tap := c.bus1.tap }
              { len := bitsToNat c.bus2.len, fill := c.bus2.fill, tap := c.bus2.tap }))

/-- R66, R68, R69, R70, R75: words written out from the encodings, at `LMAX = 8` where there is a bus: the four
opcodes, and the example of R75. -/
def Obligations.SampleCyclesDecode : Prop :=
  (∀ b0 b1 b2 : RegBus,
      decode 8 { rst := false, cmdValid := true, cmdOp := 0b00#2, bus0 := b0, bus1 := b1, bus2 := b2 } = .ok .nop
        ∧ decode 8 { rst := false, cmdValid := true, cmdOp := 0b01#2, bus0 := b0, bus1 := b1, bus2 := b2 } = .ok .gen
        ∧ decode 8 { rst := false, cmdValid := true, cmdOp := 0b11#2, bus0 := b0, bus1 := b1, bus2 := b2 }
            = .ok .reserved)
    ∧ decode 8
        { rst := false, cmdValid := true, cmdOp := 0b10#2
          bus0 := { len := [false, true, false, false]
                    fill := [false, true, false, false, false, false, false, false]
                    tap := [true, true, false, false, false, false, false, false] }
          bus1 := { len := [false, true, false, false]
                    fill := [true, false, false, false, false, false, false, false]
                    tap := [true, true, false, false, false, false, false, false] }
          bus2 := { len := [false, true, false, false]
                    fill := [false, true, false, false, false, false, false, false]
                    tap := [true, true, false, false, false, false, false, false] } }
        = .ok (.cfg
            { len := 2, fill := natToBits 8 0x02, tap := natToBits 8 0x03 }
            { len := 2, fill := natToBits 8 0x01, tap := natToBits 8 0x03 }
            { len := 2, fill := natToBits 8 0x02, tap := natToBits 8 0x03 })

/-- R64 to R70: decoding the cycle that carries a well-formed command gives the command back, with every operand at
every value its bus admits. -/
def Obligations.DecodeInvertsEncode : Prop :=
  ∀ (lmax : Nat) (i : Instr), i.wellFormed lmax = true → decode lmax (encode lmax i) = .ok i

/-- R64, R67: a cycle that decodes to a `CFG` is the only cycle that carries that command: encoding gives every wire
back. -/
def Obligations.EncodeInvertsDecodeOfCfg : Prop :=
  ∀ (lmax : Nat) (c : Cycle) (c0 c1 c2 : RegConfig),
    decode lmax c = .ok (.cfg c0 c1 c2) → encode lmax (.cfg c0 c1 c2) = c

/-- R13: `W_LEN` is the smallest width that holds every value `0..LMAX`, and is the logarithm the rule gives; at
`LMAX = 8` it is 4. -/
def Obligations.LenWidthIsSmallest : Prop :=
  (∀ lmax : Nat, (∀ w, lmax < 2 ^ w ↔ lenWidth lmax ≤ w) ∧ lenWidth lmax = Nat.clog 2 (lmax + 1)) ∧ lenWidth 8 = 4

/-! ## The control commands -/

/-- R113: `NOP` clears `BIT_VALID` and changes nothing else, in every state; and a cycle with `cmd_op = 00` is a `NOP`,
whatever the configuration bus carries. -/
def Obligations.NopClearsOnlyBitValid : Prop :=
  (∀ s : State, exec .nop s = .next { s with bitValid := false })
    ∧ ∀ (s : State) (c : Cycle) (rest : List Cycle), s.pending = c :: rest → s.wasReset = true →
        c.rst = false → c.cmdValid = true → c.cmdOp = 0b00#2 →
        step s = .next { s with pending := rest, bitValid := false }

/-- R115, R122: the reserved opcode sets `ERR_ILLEGAL`, clears `BIT_VALID` and changes nothing else, in every state; and
a cycle with `cmd_op = 11` is that command, whatever the configuration bus carries. -/
def Obligations.ReservedSetsErrIllegal : Prop :=
  (∀ s : State, exec .reserved s = .next { s with errIllegal := true, bitValid := false })
    ∧ ∀ (s : State) (c : Cycle) (rest : List Cycle), s.pending = c :: rest → s.wasReset = true →
        c.rst = false → c.cmdValid = true → c.cmdOp = 0b11#2 →
        step s = .next { s with pending := rest, errIllegal := true, bitValid := false }

/-! ## The clock primitive -/

/-- R81 to R84, R86: one clock of a register that holds at least one bit gives out the front bit; every other cell
moves one place to the front; the back cell is the parity of the tapped cells as they were before; length and taps
stay, and so does every other element of the state. -/
def Obligations.ClockShiftsAndAppendsParity : Prop :=
  ∀ (s : State) (i : RegIdx), (s.reg i).content.length = (s.reg i).len → 1 ≤ (s.reg i).len →
    (s.clock i).1 = bitAt (s.reg i).content 0
      ∧ (∀ j, j < (s.reg i).len - 1 →
          bitAt ((s.clock i).2.reg i).content j = bitAt (s.reg i).content (j + 1))
      ∧ bitAt ((s.clock i).2.reg i).content ((s.reg i).len - 1) =
          parity (((List.range' 1 (s.reg i).len).filter fun p => bitAt (s.reg i).tap (p - 1)).map
            fun p => bitAt (s.reg i).content ((s.reg i).len - p))
      ∧ ((s.clock i).2.reg i).content.length = (s.reg i).len
      ∧ ((s.clock i).2.reg i).len = (s.reg i).len
      ∧ ((s.clock i).2.reg i).tap = (s.reg i).tap
      ∧ (s.clock i).2 = s.setReg i ((s.clock i).2.reg i)

/-- R110: the order of the three step-1 clocks is not observable. In any order each register gives out the bit it
would give out first, and the state after all three is the same. -/
def Obligations.ClockOrderIsNotObservable : Prop :=
  ∀ (s : State) (order : List RegIdx), order.Perm [.r0, .r1, .r2] →
    order.foldl (fun t k => (t.clock k).2) s = (((s.clock .r0).2.clock .r1).2.clock .r2).2
      ∧ ∀ before i after, order = before ++ i :: after →
          ((before.foldl (fun t k => (t.clock k).2) s).clock i).1 = (s.clock i).1

/-- R87: the tap mask the host makes from a tap list, repeats and all, gives the feedback the list gives. -/
def Obligations.MaskFeedbackEqualsListFeedback : Prop :=
  ∀ (lmax : Nat) (c : Bits) (taps : List Nat), c.length ≤ lmax → (∀ p ∈ taps, 1 ≤ p ∧ p ≤ c.length) →
    ShiftReg.feedback { content := c, len := c.length, tap := tapMask lmax taps } =
      parity (taps.map fun p => bitAt c (c.length - p))

/-- R89: with `o t` the clocked output of the `t`-th clock, the content before clock `t` is `o t, …, o (t+L-1)`, and
`o (t+L)` is the XOR of `o (t+L-p)` over the tap positions `p`. -/
def Obligations.RegisterOutputRecurrence : Prop :=
  ∀ (r : ShiftReg) (t : Nat), r.content.length = r.len → 1 ≤ r.len →
    (ShiftReg.clocked^[t] r).content = (List.range r.len).map (fun j => (ShiftReg.clocked^[t + j] r).front)
      ∧ (ShiftReg.clocked^[t + r.len] r).front =
          parity (r.tapPositions.map fun p => (ShiftReg.clocked^[t + r.len - p] r).front)

/-- R88, rows 1, 2 and 4, and R27: with no taps the feedback is 0, and after `L` clocks (and ever after) the content
is all zero; an all-zero content stays so under any taps and every output is 0. -/
def Obligations.NoTapsDrainAndZerosStay : Prop :=
  ∀ (r : ShiftReg) (n : Nat), r.content.length = r.len → 1 ≤ r.len →
    (r.tapPositions = [] →
        r.feedback = false ∧ (ShiftReg.clocked^[r.len + n] r).content = zeros r.len)
      ∧ (r.content = zeros r.len →
        (ShiftReg.clocked^[n] r).content = zeros r.len ∧ (ShiftReg.clocked^[n] r).front = false)

/-- R88, rows 3 and 5: with tap position `L` alone the register rotates: one clock moves the front bit to the back,
and after `L` clocks the content is what it was, so the outputs repeat every `L` clocks. A register of length 1 with
tap set `{1}` never changes. -/
def Obligations.FrontTapRotates : Prop :=
  ∀ (r : ShiftReg) (n : Nat), r.content.length = r.len → 1 ≤ r.len → r.tapPositions = [r.len] →
    r.clocked.content = r.content.rotate 1
      ∧ ShiftReg.clocked^[r.len] r = r
      ∧ (ShiftReg.clocked^[n + r.len] r).front = (ShiftReg.clocked^[n] r).front
      ∧ (r.len = 1 → ShiftReg.clocked^[n] r = r ∧ (ShiftReg.clocked^[n] r).front = bitAt r.content 0)

/-- R88, rows 6 and 7: with tap position 1 alone the back bit is copied, and after `L-1` clocks every cell equals the
original back bit; with every position tapped the feedback is the parity of the whole content. -/
def Obligations.BackTapCopiesAndAllTapsSum : Prop :=
  ∀ r : ShiftReg, r.content.length = r.len → 2 ≤ r.len →
    (r.tapPositions = [1] →
        r.feedback = bitAt r.content (r.len - 1)
          ∧ (ShiftReg.clocked^[r.len - 1] r).content = List.replicate r.len (bitAt r.content (r.len - 1)))
      ∧ (r.tapPositions = List.range' 1 r.len → r.feedback = parity r.content)

/-! ## `CFG` -/

/-- R94, R96: a `CFG` whose operands pass every check of R92 loads all three registers in the one step: the length,
the fill with its element 0 at the front, the mask; `READY` becomes 1, the result is `NONE`, and nothing else changes
but `BIT_VALID`. The premise on the mask's width is the width of the port (R63). -/
def Obligations.CfgLoadsAcceptedConfiguration : Prop :=
  ∀ (s : State) (c0 c1 c2 : RegConfig),
    (∀ c ∈ [c0, c1, c2], 1 ≤ c.len ∧ c.len ≤ s.lmax ∧ c.tap.length = s.lmax ∧
      ∀ k, c.len ≤ k → k < s.lmax → bitAt c.tap k = false) →
    exec (.cfg c0 c1 c2) s =
      .next
        { s with
          decider := { content := c0.fill.take c0.len, len := c0.len, tap := c0.tap }
          first := { content := c1.fill.take c1.len, len := c1.len, tap := c1.tap }
          second := { content := c2.fill.take c2.len, len := c2.len, tap := c2.tap }
          ready := true, cfgCause := .none, cfgReg := 0b00#2, bitValid := false }

/-- R95: a `CFG` in which some register fails some check of R92 changes nothing but `CFG_CAUSE`, `CFG_REG` and
`BIT_VALID <- 0`, and its result is not `NONE`. -/
def Obligations.CfgRejectedChangesOnlyItsResult : Prop :=
  ∀ (s : State) (c0 c1 c2 : RegConfig),
    (∃ c ∈ [c0, c1, c2], c.len = 0 ∨ s.lmax < c.len ∨ ∃ k, c.len ≤ k ∧ k < s.lmax ∧ bitAt c.tap k = true) →
    ∃ cause reg, cause ≠ .none ∧
      exec (.cfg c0 c1 c2) s = .next { s with cfgCause := cause, cfgReg := reg, bitValid := false }

/-- R93, R118: which check and which register a `CFG` reports: registers 0, 1, 2 in this order, and within one the
length zero, the length too long, the taps; the first that fails. -/
def Obligations.CfgReportsFirstFailingCheck : Prop :=
  ∀ (s : State) (c0 c1 c2 : RegConfig), (Instr.cfg c0 c1 c2).wellFormed s.lmax = true →
    ∃ t, exec (.cfg c0 c1 c2) s = .next t ∧
      (t.cfgCause, t.cfgReg) =
        (if c0.len = 0 then (CfgCause.lenZero, 0#2)
         else if s.lmax < c0.len then (CfgCause.lenTooLong, 0#2)
         else if (List.range s.lmax).any fun k => decide (c0.len ≤ k) && bitAt c0.tap k then (CfgCause.tapRange, 0#2)
         else if c1.len = 0 then (CfgCause.lenZero, 1#2)
         else if s.lmax < c1.len then (CfgCause.lenTooLong, 1#2)
         else if (List.range s.lmax).any fun k => decide (c1.len ≤ k) && bitAt c1.tap k then (CfgCause.tapRange, 1#2)
         else if c2.len = 0 then (CfgCause.lenZero, 2#2)
         else if s.lmax < c2.len then (CfgCause.lenTooLong, 2#2)
         else if (List.range s.lmax).any fun k => decide (c2.len ≤ k) && bitAt c2.tap k then (CfgCause.tapRange, 2#2)
         else (CfgCause.none, 0#2))

/-- R69: the bits of the fill bus at `L` and above are ignored: two `CFG`s that differ only there have the same
effect. -/
def Obligations.FillBitsAboveLengthIgnored : Prop :=
  ∀ (s : State) (c0 c1 c2 d0 d1 d2 : RegConfig),
    (∀ e ∈ [(c0, d0), (c1, d1), (c2, d2)], e.1.len = e.2.len ∧ e.1.tap = e.2.tap
      ∧ e.1.fill.length = e.2.fill.length ∧ ∀ j, j < e.1.len → bitAt e.1.fill j = bitAt e.2.fill j) →
    exec (.cfg c0 c1 c2) s = exec (.cfg d0 d1 d2) s

/-- R55, R98: the same `CFG` a second time gives the same state as the first. -/
def Obligations.CfgTwiceIsCfgOnce : Prop :=
  ∀ (s : State) (c0 c1 c2 : RegConfig),
    ∃ t, exec (.cfg c0 c1 c2) s = .next t ∧ exec (.cfg c0 c1 c2) t = .next t

/-! ## `GEN` -/

/-- R101, R121: a `GEN` on a block that is not `READY` sets `ERR_NOTREADY`, clears `BIT_VALID` and changes nothing
else. -/
def Obligations.GenRefusedWhileNotReady : Prop :=
  ∀ s : State, s.ready = false → exec .gen s = .next { s with errNotReady := true, bitValid := false }

/-- R103 to R107: a `GEN` on a block that is `READY`, whose registers hold `LEN >= 1` bits each, as R81 requires. With `d`, `f`, `g` the front bits of the three registers before
the command: if `f = g` the output is `d` and each register is clocked once; else if `d = 1` the output is `f` and
the second register is clocked twice; else the output is `g` and the first register is clocked twice. Nothing else
changes. -/
def Obligations.GenClocksAndOutputs : Prop :=
  ∀ s : State, s.ready = true → (∀ i, (s.reg i).content.length = (s.reg i).len ∧ 1 ≤ (s.reg i).len) →
    (bitAt s.first.content 0 = bitAt s.second.content 0 →
        exec .gen s = .next
          { s with decider := s.decider.clocked, first := s.first.clocked, second := s.second.clocked
                   bitOut := bitAt s.decider.content 0, bitValid := true })
      ∧ (bitAt s.first.content 0 ≠ bitAt s.second.content 0 → bitAt s.decider.content 0 = true →
        exec .gen s = .next
          { s with decider := s.decider.clocked, first := s.first.clocked, second := s.second.clocked.clocked
                   bitOut := bitAt s.first.content 0, bitValid := true })
      ∧ (bitAt s.first.content 0 ≠ bitAt s.second.content 0 → bitAt s.decider.content 0 = false →
        exec .gen s = .next
          { s with decider := s.decider.clocked, first := s.first.clocked.clocked, second := s.second.clocked
                   bitOut := bitAt s.second.content 0, bitValid := true })

/-- R109: the combiner, row by row, with the register that gets the extra clock. -/
def Obligations.CombinerTable : Prop :=
  combine false false false = (false, none) ∧ combine false false true = (true, some .r1)
    ∧ combine false true false = (false, some .r1) ∧ combine false true true = (false, none)
    ∧ combine true false false = (true, none) ∧ combine true false true = (false, some .r2)
    ∧ combine true true false = (true, some .r2) ∧ combine true true true = (true, none)
    ∧ ∀ d f s, (f = s → (combine d f s).1 = d) ∧ (f ≠ s → (combine d f s).1 = xor d s)

/-! ## The status word and the ports -/

/-- R32, R118: the fields of `STATUS`. -/
def Obligations.StatusWordLayout : Prop :=
  ∀ s : State,
    s.status.getLsbD 0 = s.ready ∧ s.status.getLsbD 1 = s.errNotReady ∧ s.status.getLsbD 2 = s.errIllegal
      ∧ s.status.getLsbD 3 = false
      ∧ s.status.extractLsb' 4 2 =
          (match s.cfgCause with
            | .none => 0#2
            | .lenZero => 1#2
            | .lenTooLong => 2#2
            | .tapRange => 3#2)
      ∧ s.status.extractLsb' 6 2 = s.cfgReg

/-- R78, R79, R80: what the observation ports show in a state that meets the invariant: bit `j` of `ri_q` is element
`j` of the content, 0 at and above the length; `leni_q` is the length; `tapi_q` is the mask. -/
def Obligations.PortsShowTheState : Prop :=
  ∀ s : State, s.Inv → ∃ p, s.ports = some p
    ∧ p.bitOut = s.bitOut ∧ p.bitValid = s.bitValid ∧ p.status = s.status
    ∧ (∀ e ∈ [(p.r0q, s.decider), (p.r1q, s.first), (p.r2q, s.second)],
        e.1.length = s.lmax ∧ ∀ j, j < s.lmax → bitAt e.1 j = if j < e.2.len then bitAt e.2.content j else false)
    ∧ (∀ e ∈ [(p.len0q, s.decider), (p.len1q, s.first), (p.len2q, s.second)],
        e.1.length = lenWidth s.lmax ∧ bitsToNat e.1 = e.2.len)
    ∧ p.tap0q = s.decider.tap ∧ p.tap1q = s.first.tap ∧ p.tap2q = s.second.tap

/-! ## What every step keeps, and what only some steps change -/

/-- The invariant holds in the reset state of every `LMAX` (the rule gives `LMAX >= 1`), and so in `State.reset`,
whose `LMAX` is the model's choice (log entry 1). -/
def Obligations.ResetMeetsInvariant : Prop :=
  (∀ (lmax : Nat) (pending : List Cycle), 1 ≤ lmax → (State.resetOf lmax pending).Inv) ∧ State.reset.Inv

/-- R25, R28, R29, R36, R37, R38: the invariant is kept by every step. -/
def Obligations.StepKeepsInvariant : Prop :=
  ∀ s t : State, s.Inv → step s = .next t → t.Inv

/-- R116: `BIT_VALID` is 1 after an edge exactly when the edge accepted a `GEN` with `READY = 1`; without such a `GEN`
and without a reset `BIT_OUT` keeps its value. -/
def Obligations.BitValidOnlyAfterProducingGen : Prop :=
  ∀ (s t : State) (c : Cycle) (rest : List Cycle), s.pending = c :: rest → step s = .next t →
    (t.bitValid = true ↔ decode s.lmax c = .ok .gen ∧ s.ready = true)
      ∧ (c.rst = false → ¬(decode s.lmax c = .ok .gen ∧ s.ready = true) → t.bitOut = s.bitOut)

/-- R33, R34: what sets the two sticky bits, and that nothing but a reset clears them. -/
def Obligations.StickyErrorsSetAndKept : Prop :=
  ∀ (s t : State) (c : Cycle) (rest : List Cycle), s.pending = c :: rest → step s = .next t →
    (c.rst = false →
        (t.errNotReady = true ↔ s.errNotReady = true ∨ (decode s.lmax c = .ok .gen ∧ s.ready = false))
          ∧ (t.errIllegal = true ↔ s.errIllegal = true ∨ decode s.lmax c = .ok .reserved))
      ∧ (c.rst = true → t.errNotReady = false ∧ t.errIllegal = false)

/-- R31, R35, R36: `READY` is set by a successful `CFG` and by nothing else, and stays until reset; `CFG_CAUSE` and
`CFG_REG` change by `CFG` and reset only. -/
def Obligations.ReadyAndCfgResultOnlyByCfg : Prop :=
  ∀ (s t : State) (c : Cycle) (rest : List Cycle), s.pending = c :: rest → step s = .next t → c.rst = false →
    (t.ready = true ↔
        s.ready = true ∨ ((∃ c0 c1 c2, decode s.lmax c = .ok (.cfg c0 c1 c2)) ∧ t.cfgCause = .none))
      ∧ ((∀ c0 c1 c2, decode s.lmax c ≠ .ok (.cfg c0 c1 c2)) → t.cfgCause = s.cfgCause ∧ t.cfgReg = s.cfgReg)

/-- R25, R26: apart from a reset, the length of a content, `LEN` and `TAP` change only by a successful `CFG`, and a
register changes at all only by that or by a `GEN` with `READY = 1`. -/
def Obligations.RegistersOnlyByCfgAndGen : Prop :=
  ∀ (s t : State) (c : Cycle) (rest : List Cycle), s.Inv → s.pending = c :: rest → step s = .next t →
    c.rst = false → ¬((∃ c0 c1 c2, decode s.lmax c = .ok (.cfg c0 c1 c2)) ∧ t.cfgCause = .none) →
      ∀ i, (t.reg i).content.length = (s.reg i).content.length
        ∧ (t.reg i).len = (s.reg i).len ∧ (t.reg i).tap = (s.reg i).tap
        ∧ (¬(decode s.lmax c = .ok .gen ∧ s.ready = true) → t.reg i = s.reg i)

/-- R119, R144: every command, in every state, takes its whole effect and the machine goes on; an error never stops
the block. -/
def Obligations.NoCommandStopsTheBlock : Prop :=
  ∀ (i : Instr) (s : State), ∃ t, exec i s = .next t ∧ t.pending = s.pending ∧ t.lmax = s.lmax

/-! ## Runs -/

/-- R143, R45: a run starts with at least one reset cycle. Without a cycle, and with a first cycle that is no reset,
nothing is observed; that this is the fault `beforeFirstReset` is how the model gives no value (log entry 2). The
premise on the buses only says that the cycle can be driven. -/
def Obligations.NoObservationWithoutReset : Prop :=
  ∀ s : State, observeRun s [] = .fault .beforeFirstReset ∧ ¬EndsClean s [] ∧ ¬CleanRun s []
    ∧ ∀ (c : Cycle) (rest : List Cycle), c.rst = false →
        c.bus0.fits s.lmax = true → c.bus1.fits s.lmax = true → c.bus2.fits s.lmax = true →
        observeRun s (c :: rest) = .fault .beforeFirstReset

/-- R143: every run that starts with a reset and whose cycles can be driven has an observation. Its trace has one entry
for each cycle of the run, in order; observed are the `BIT_OUT` of each `GEN` that produced a bit, the `STATUS` word after
each `CFG`, and the state after the last cycle. -/
def Obligations.RunFromResetIsObserved : Prop :=
  ∀ (s : State) (c : Cycle) (rest : List Cycle), c.rst = true →
    (∀ d ∈ rest, decode s.lmax d ≠ .error .busWidth) →
    ∃ o l, observeRun s (c :: rest) = .next o ∧ trace (rest.length + 1) (s.powerUp (c :: rest)) = .next l
      ∧ l.map (fun e => e.1) = c :: rest
      ∧ o.bits = (l.filter fun e => carriesGen s.lmax e.1 && e.2.bitValid).map (fun e => e.2.bitOut)
      ∧ o.cfgStatus = (l.filter fun e => carriesCfg s.lmax e.1).map (fun e => e.2.status)
      ∧ l.getLast? = some ((c :: rest).getLast (List.cons_ne_nil c rest), o.final)

/-- R49: the keystream of a trace is, bit by bit, the `BIT_OUT` of the `GEN`s that produced one after the last `CFG`
that succeeded, in the order they were accepted; whatever else comes after that `CFG`, a reset included, takes nothing
from it. -/
def Obligations.KeystreamIsProducedAfterLastCfg : Prop :=
  ∀ (s : State) (n : Nat) (before after : List (Cycle × State)) (e : Cycle × State),
    trace n s = .next (before ++ e :: after) → cfgSucceeded e = true → (∀ a ∈ after, cfgSucceeded a = false) →
    keystream (before ++ e :: after) =
      (after.filter fun a => carriesGen s.lmax a.1 && a.2.bitValid).map (fun a => a.2.bitOut)

/-- R76: `KEYSTREAM n` on a block that is `READY` produces exactly `n` bits, and none of its cycles stops. -/
def Obligations.KeystreamProducesNBits : Prop :=
  ∀ (s : State) (n : Nat), s.wasReset = true → s.ready = true →
    ∃ l, trace n { s with pending := List.replicate n (encode s.lmax .gen) } = .next l
      ∧ (producedBits l).length = n ∧ ∀ e ∈ l, e.2.ready = true ∧ e.2.bitValid = true

/-- R111: idle cycles, `NOP`s, reserved opcodes and rejected `CFG`s between the `GEN`s do not change the keystream:
the bits produced are those of the `GEN`s alone. -/
def Obligations.InertCyclesLeaveTheKeystream : Prop :=
  ∀ (s : State) (cycles : List Cycle), s.wasReset = true → s.ready = true →
    (∀ c ∈ cycles, decode s.lmax c = .error .idleCycle ∨ decode s.lmax c = .ok .nop
      ∨ decode s.lmax c = .ok .reserved ∨ decode s.lmax c = .ok .gen
      ∨ ∃ c0 c1 c2, decode s.lmax c = .ok (.cfg c0 c1 c2) ∧ checkCfg s.lmax c0 c1 c2 ≠ none) →
    ∃ l l',
      trace cycles.length { s with pending := cycles } = .next l
        ∧ trace (cycles.countP (carriesGen s.lmax))
            { s with pending := List.replicate (cycles.countP (carriesGen s.lmax)) (encode s.lmax .gen) } = .next l'
        ∧ producedBits l = producedBits l'

/-- R97, R111: after a successful `CFG` nothing of the earlier generator affects a later `GEN`: two blocks in whatever
states, given the same accepted `CFG` and the same cycles after it, produce the same bits. -/
def Obligations.BitsDependOnlyOnConfiguration : Prop :=
  ∀ (s s' : State) (c0 c1 c2 : RegConfig) (cycles : List Cycle),
    s.lmax = s'.lmax → s.wasReset = true → s'.wasReset = true →
    (Instr.cfg c0 c1 c2).wellFormed s.lmax = true → checkCfg s.lmax c0 c1 c2 = none →
    (∀ c ∈ cycles, decode s.lmax c ≠ .error .busWidth) →
    ∃ l l',
      trace (cycles.length + 1) { s with pending := encode s.lmax (.cfg c0 c1 c2) :: cycles } = .next l
        ∧ trace (cycles.length + 1) { s' with pending := encode s.lmax (.cfg c0 c1 c2) :: cycles } = .next l'
        ∧ producedBits l = producedBits l'

/-- R129, R128: a run whose only reset is its first cycle, and at whose end neither sticky bit is set, was clean all
along: no reserved opcode came and every `GEN` produced a bit. -/
def Obligations.RunThatEndsCleanWasClean : Prop :=
  ∀ (s : State) (c : Cycle) (rest : List Cycle),
    c.rst = true → (∀ d ∈ rest, d.rst = false) → EndsClean s (c :: rest) →
    CleanRun s (c :: rest)
      ∧ ∀ l, trace (rest.length + 1) (s.powerUp (c :: rest)) = .next l →
          ∀ e ∈ l, decode s.lmax e.1 ≠ .ok .reserved ∧ (decode s.lmax e.1 = .ok .gen → e.2.bitValid = true)

/-! ## The host's side -/

/-- R71, R87, R94: a configuration in list form whose fills are 1 to `LMAX` bits long and whose taps lie in `1..L` is
converted to a `CFG` that the block accepts; each register then holds the fill, and its feedback is the sum over the
list, repeats included. -/
def Obligations.ListConfigurationIsLoaded : Prop :=
  ∀ (s : State) (r0 r1 r2 : ListReg),
    (∀ r ∈ [r0, r1, r2], 1 ≤ r.fill.length ∧ r.fill.length ≤ s.lmax ∧ ∀ p ∈ r.taps, 1 ≤ p ∧ p ≤ r.fill.length) →
    ∃ i t, convertList s.lmax r0 r1 r2 = .ok i ∧ i.wellFormed s.lmax = true ∧ exec i s = .next t ∧ t.ready = true
      ∧ ∀ e ∈ [(t.decider, r0), (t.first, r1), (t.second, r2)],
          e.1.content = e.2.fill ∧ e.1.len = e.2.fill.length
            ∧ e.1.feedback = parity (e.2.taps.map fun p => bitAt e.2.fill (e.2.fill.length - p))

/-- R71, R93: where the host turns a list form away and every tap is one the mask can hold (within `1..LMAX`, no
repeats), the error it reports is the one the block reports for the same operands. -/
def Obligations.HostReportsTheBlocksError : Prop :=
  ∀ (s : State) (r0 r1 r2 : ListReg) (e : BlockError),
    (∀ r ∈ [r0, r1, r2], r.taps.Nodup ∧ ∀ p ∈ r.taps, 1 ≤ p ∧ p ≤ s.lmax) →
    convertList s.lmax r0 r1 r2 = .error e →
    exec (.cfg (r0.operands s.lmax) (r1.operands s.lmax) (r2.operands s.lmax)) s =
      .next (s.raise e).clearBitValid
end

