-- ==== Sys2Proof/Laws/Bus.lean ====
section
/-! SUPPORT. The small lemmas of the bus functions. -/

namespace Sys2Proof

@[simp] theorem parity_nil : parity [] = false := rfl

@[simp] theorem parity_cons (b : Bool) (bs : Bits) : parity (b :: bs) = xor b (parity bs) := rfl

theorem parity_append (a b : Bits) : parity (a ++ b) = xor (parity a) (parity b) := by
  induction a with
  | nil => simp
  | cons x xs ih => simp [ih]

@[simp] theorem zeros_length (w : Nat) : (zeros w).length = w := by
  simp [zeros]

theorem bitAt_of_lt {b : Bits} {j : Nat} (h : j < b.length) : bitAt b j = b[j] := by
  simp [bitAt, List.getElem?_eq_getElem h]

theorem bitAt_of_ge {b : Bits} {j : Nat} (h : b.length ≤ j) : bitAt b j = false := by
  simp [bitAt, List.getElem?_eq_none h]

@[simp] theorem bitAt_zeros (w j : Nat) : bitAt (zeros w) j = false := by
  by_cases h : j < w
  · rw [bitAt_of_lt (by simpa using h)]
    simp [zeros]
  · exact bitAt_of_ge (by simpa using Nat.le_of_not_lt h)

@[simp] theorem natToBits_length (w n : Nat) : (natToBits w n).length = w := by
  induction w generalizing n with
  | zero => rfl
  | succ w ih => simp [natToBits, ih]

/-- A bus built wire by wire shows on wire `j` what it was given there. -/
theorem bitAt_map_range {n j : Nat} (f : Nat → Bool) (h : j < n) : bitAt ((List.range n).map f) j = f j := by
  rw [bitAt_of_lt (by simpa using h)]
  simp

/-- A value that fits a bus is read back from it. -/
theorem bitsToNat_natToBits {w n : Nat} (h : n < 2 ^ w) : bitsToNat (natToBits w n) = n := by
  induction w generalizing n with
  | zero => simp_all [natToBits, bitsToNat]
  | succ w ih =>
    simp only [natToBits, bitsToNat]
    rw [ih (by rw [Nat.pow_succ] at h; omega)]
    rcases Nat.mod_two_eq_zero_or_one n with h | h <;> simp [h] <;> omega

/-- A bus is the one of its width that shows its value. -/
theorem natToBits_bitsToNat (b : Bits) : natToBits b.length (bitsToNat b) = b := by
  induction b with
  | nil => rfl
  | cons x xs ih =>
    have h : (x.toNat + 2 * bitsToNat xs) / 2 = bitsToNat xs := by
      have := Bool.toNat_le x
      omega
    simp only [List.length_cons, natToBits, bitsToNat, h, ih]
    cases x <;> simp

/-- A bus is narrower than its next power of two. -/
theorem bitsToNat_lt (b : Bits) : bitsToNat b < 2 ^ b.length := by
  induction b with
  | nil => simp [bitsToNat]
  | cons x xs ih =>
    have : x.toNat ≤ 1 := Bool.toNat_le x
    simp only [bitsToNat, List.length_cons, Nat.pow_succ]
    omega

/-- A slice is 0 exactly when each of its bits is. -/
theorem sliceNonzero_eq_false_iff (b : Bits) (lo : Nat) :
    sliceNonzero b lo = false ↔ ∀ k, lo ≤ k → bitAt b k = false := by
  unfold sliceNonzero
  rw [List.any_eq_false]
  constructor
  · intro h k hk
    by_cases hb : k < b.length
    · rw [bitAt_of_lt hb]
      have hm : b[k] ∈ b.drop lo := List.mem_drop_iff_getElem.mpr ⟨k - lo, by omega, by congr 1; omega⟩
      simpa using h _ hm
    · exact bitAt_of_ge (Nat.le_of_not_lt hb)
  · intro h x hx
    obtain ⟨j, hj, rfl⟩ := List.mem_drop_iff_getElem.mp hx
    have := h (lo + j) (by omega)
    rw [bitAt_of_lt (by omega)] at this
    simpa using this

end Sys2Proof
end

