-- ==== Sys2Proof/Laws/State.lean ====
section
/-! SUPPORT. One lemma per field per named update of the state, true by computation, so that no proof unfolds a record
update. -/

namespace Sys2Proof.Machine

variable (s : State)

/-! Reading a register after writing one. -/

@[simp] theorem reg_setReg_same (i : RegIdx) (r : ShiftReg) : (s.setReg i r).reg i = r := by
  cases i <;> rfl

theorem reg_setReg_other (i j : RegIdx) (r : ShiftReg) (h : j ≠ i) : (s.setReg i r).reg j = s.reg j := by
  cases i <;> cases j <;> first | rfl | exact absurd rfl h

@[simp] theorem reg_r0 : s.reg .r0 = s.decider := rfl
@[simp] theorem reg_r1 : s.reg .r1 = s.first := rfl
@[simp] theorem reg_r2 : s.reg .r2 = s.second := rfl
@[simp] theorem setReg_r0 (r : ShiftReg) : s.setReg .r0 r = { s with decider := r } := rfl
@[simp] theorem setReg_r1 (r : ShiftReg) : s.setReg .r1 r = { s with first := r } := rfl
@[simp] theorem setReg_r2 (r : ShiftReg) : s.setReg .r2 r = { s with second := r } := rfl

/-! `setReg` and `clock` write one register and nothing else. -/

@[simp] theorem setReg_lmax (i : RegIdx) (r : ShiftReg) : (s.setReg i r).lmax = s.lmax := by cases i <;> rfl

@[simp] theorem setReg_wasReset (i : RegIdx) (r : ShiftReg) : (s.setReg i r).wasReset = s.wasReset := by cases i <;> rfl

@[simp] theorem setReg_ready (i : RegIdx) (r : ShiftReg) : (s.setReg i r).ready = s.ready := by cases i <;> rfl

@[simp] theorem setReg_errNotReady (i : RegIdx) (r : ShiftReg) : (s.setReg i r).errNotReady = s.errNotReady := by cases i <;> rfl

@[simp] theorem setReg_errIllegal (i : RegIdx) (r : ShiftReg) : (s.setReg i r).errIllegal = s.errIllegal := by cases i <;> rfl

@[simp] theorem setReg_cfgCause (i : RegIdx) (r : ShiftReg) : (s.setReg i r).cfgCause = s.cfgCause := by cases i <;> rfl

@[simp] theorem setReg_cfgReg (i : RegIdx) (r : ShiftReg) : (s.setReg i r).cfgReg = s.cfgReg := by cases i <;> rfl

@[simp] theorem setReg_bitOut (i : RegIdx) (r : ShiftReg) : (s.setReg i r).bitOut = s.bitOut := by cases i <;> rfl

@[simp] theorem setReg_bitValid (i : RegIdx) (r : ShiftReg) : (s.setReg i r).bitValid = s.bitValid := by cases i <;> rfl

@[simp] theorem setReg_pending (i : RegIdx) (r : ShiftReg) : (s.setReg i r).pending = s.pending := by cases i <;> rfl

@[simp] theorem clock_lmax (i : RegIdx) : (s.clock i).2.lmax = s.lmax := by cases i <;> rfl

@[simp] theorem clock_wasReset (i : RegIdx) : (s.clock i).2.wasReset = s.wasReset := by cases i <;> rfl

@[simp] theorem clock_ready (i : RegIdx) : (s.clock i).2.ready = s.ready := by cases i <;> rfl

@[simp] theorem clock_errNotReady (i : RegIdx) : (s.clock i).2.errNotReady = s.errNotReady := by cases i <;> rfl

@[simp] theorem clock_errIllegal (i : RegIdx) : (s.clock i).2.errIllegal = s.errIllegal := by cases i <;> rfl

@[simp] theorem clock_cfgCause (i : RegIdx) : (s.clock i).2.cfgCause = s.cfgCause := by cases i <;> rfl

@[simp] theorem clock_cfgReg (i : RegIdx) : (s.clock i).2.cfgReg = s.cfgReg := by cases i <;> rfl

@[simp] theorem clock_bitOut (i : RegIdx) : (s.clock i).2.bitOut = s.bitOut := by cases i <;> rfl

@[simp] theorem clock_bitValid (i : RegIdx) : (s.clock i).2.bitValid = s.bitValid := by cases i <;> rfl

@[simp] theorem clock_pending (i : RegIdx) : (s.clock i).2.pending = s.pending := by cases i <;> rfl

@[simp] theorem clock_out (i : RegIdx) : (s.clock i).1 = (s.reg i).front := rfl

@[simp] theorem reg_clock_same (i : RegIdx) : (s.clock i).2.reg i = (s.reg i).clocked := reg_setReg_same s i _

theorem reg_clock_other (i j : RegIdx) (h : j ≠ i) : (s.clock i).2.reg j = s.reg j :=
  reg_setReg_other s i j _ h

/-! `clearBitValid` and `idle`. -/

@[simp] theorem clearBitValid_lmax : s.clearBitValid.lmax = s.lmax := rfl

@[simp] theorem clearBitValid_wasReset : s.clearBitValid.wasReset = s.wasReset := rfl

@[simp] theorem clearBitValid_decider : s.clearBitValid.decider = s.decider := rfl

@[simp] theorem clearBitValid_first : s.clearBitValid.first = s.first := rfl

@[simp] theorem clearBitValid_second : s.clearBitValid.second = s.second := rfl

@[simp] theorem clearBitValid_ready : s.clearBitValid.ready = s.ready := rfl

@[simp] theorem clearBitValid_errNotReady : s.clearBitValid.errNotReady = s.errNotReady := rfl

@[simp] theorem clearBitValid_errIllegal : s.clearBitValid.errIllegal = s.errIllegal := rfl

@[simp] theorem clearBitValid_cfgCause : s.clearBitValid.cfgCause = s.cfgCause := rfl

@[simp] theorem clearBitValid_cfgReg : s.clearBitValid.cfgReg = s.cfgReg := rfl

@[simp] theorem clearBitValid_bitOut : s.clearBitValid.bitOut = s.bitOut := rfl

@[simp] theorem clearBitValid_bitValid : s.clearBitValid.bitValid = false := rfl

@[simp] theorem clearBitValid_pending : s.clearBitValid.pending = s.pending := rfl

@[simp] theorem idle_eq : s.idle = s.clearBitValid := rfl

/-! `raise` writes status fields only. -/

@[simp] theorem raise_lmax (e : BlockError) : (s.raise e).lmax = s.lmax := by cases e <;> rfl

@[simp] theorem raise_wasReset (e : BlockError) : (s.raise e).wasReset = s.wasReset := by cases e <;> rfl

@[simp] theorem raise_decider (e : BlockError) : (s.raise e).decider = s.decider := by cases e <;> rfl

@[simp] theorem raise_first (e : BlockError) : (s.raise e).first = s.first := by cases e <;> rfl

@[simp] theorem raise_second (e : BlockError) : (s.raise e).second = s.second := by cases e <;> rfl

@[simp] theorem raise_ready (e : BlockError) : (s.raise e).ready = s.ready := by cases e <;> rfl

@[simp] theorem raise_bitOut (e : BlockError) : (s.raise e).bitOut = s.bitOut := by cases e <;> rfl

@[simp] theorem raise_bitValid (e : BlockError) : (s.raise e).bitValid = s.bitValid := by cases e <;> rfl

@[simp] theorem raise_pending (e : BlockError) : (s.raise e).pending = s.pending := by cases e <;> rfl

@[simp] theorem raise_lenZero_errNotReady (i : RegIdx) : (s.raise (.lenZero i)).errNotReady = s.errNotReady := rfl

@[simp] theorem raise_lenZero_errIllegal (i : RegIdx) : (s.raise (.lenZero i)).errIllegal = s.errIllegal := rfl

@[simp] theorem raise_lenZero_cfgCause (i : RegIdx) : (s.raise (.lenZero i)).cfgCause = .lenZero := rfl

@[simp] theorem raise_lenZero_cfgReg (i : RegIdx) : (s.raise (.lenZero i)).cfgReg = regCode i := rfl

@[simp] theorem raise_lenTooLong_errNotReady (i : RegIdx) : (s.raise (.lenTooLong i)).errNotReady = s.errNotReady := rfl

@[simp] theorem raise_lenTooLong_errIllegal (i : RegIdx) : (s.raise (.lenTooLong i)).errIllegal = s.errIllegal := rfl

@[simp] theorem raise_lenTooLong_cfgCause (i : RegIdx) : (s.raise (.lenTooLong i)).cfgCause = .lenTooLong := rfl

@[simp] theorem raise_lenTooLong_cfgReg (i : RegIdx) : (s.raise (.lenTooLong i)).cfgReg = regCode i := rfl

@[simp] theorem raise_tapRange_errNotReady (i : RegIdx) : (s.raise (.tapRange i)).errNotReady = s.errNotReady := rfl

@[simp] theorem raise_tapRange_errIllegal (i : RegIdx) : (s.raise (.tapRange i)).errIllegal = s.errIllegal := rfl

@[simp] theorem raise_tapRange_cfgCause (i : RegIdx) : (s.raise (.tapRange i)).cfgCause = .tapRange := rfl

@[simp] theorem raise_tapRange_cfgReg (i : RegIdx) : (s.raise (.tapRange i)).cfgReg = regCode i := rfl

@[simp] theorem raise_notReady_errNotReady : (s.raise .notReady).errNotReady = true := rfl

@[simp] theorem raise_notReady_errIllegal : (s.raise .notReady).errIllegal = s.errIllegal := rfl

@[simp] theorem raise_notReady_cfgCause : (s.raise .notReady).cfgCause = s.cfgCause := rfl

@[simp] theorem raise_notReady_cfgReg : (s.raise .notReady).cfgReg = s.cfgReg := rfl

@[simp] theorem raise_illegal_errNotReady : (s.raise .illegal).errNotReady = s.errNotReady := rfl

@[simp] theorem raise_illegal_errIllegal : (s.raise .illegal).errIllegal = true := rfl

@[simp] theorem raise_illegal_cfgCause : (s.raise .illegal).cfgCause = s.cfgCause := rfl

@[simp] theorem raise_illegal_cfgReg : (s.raise .illegal).cfgReg = s.cfgReg := rfl

/-! `applyReset`. -/

@[simp] theorem applyReset_lmax : s.applyReset.lmax = s.lmax := rfl

@[simp] theorem applyReset_wasReset : s.applyReset.wasReset = true := rfl

@[simp] theorem applyReset_decider : s.applyReset.decider = ShiftReg.empty s.lmax := rfl

@[simp] theorem applyReset_first : s.applyReset.first = ShiftReg.empty s.lmax := rfl

@[simp] theorem applyReset_second : s.applyReset.second = ShiftReg.empty s.lmax := rfl

@[simp] theorem applyReset_ready : s.applyReset.ready = false := rfl

@[simp] theorem applyReset_errNotReady : s.applyReset.errNotReady = false := rfl

@[simp] theorem applyReset_errIllegal : s.applyReset.errIllegal = false := rfl

@[simp] theorem applyReset_cfgCause : s.applyReset.cfgCause = .none := rfl

@[simp] theorem applyReset_cfgReg : s.applyReset.cfgReg = 0b00#2 := rfl

@[simp] theorem applyReset_bitOut : s.applyReset.bitOut = false := rfl

@[simp] theorem applyReset_bitValid : s.applyReset.bitValid = false := rfl

@[simp] theorem applyReset_pending : s.applyReset.pending = s.pending := rfl

/-! `commit`. -/

@[simp] theorem commit_lmax (c0 c1 c2 : RegConfig) : (s.commit c0 c1 c2).lmax = s.lmax := rfl

@[simp] theorem commit_wasReset (c0 c1 c2 : RegConfig) : (s.commit c0 c1 c2).wasReset = s.wasReset := rfl

@[simp] theorem commit_decider (c0 c1 c2 : RegConfig) : (s.commit c0 c1 c2).decider = configuredReg c0 := rfl

@[simp] theorem commit_first (c0 c1 c2 : RegConfig) : (s.commit c0 c1 c2).first = configuredReg c1 := rfl

@[simp] theorem commit_second (c0 c1 c2 : RegConfig) : (s.commit c0 c1 c2).second = configuredReg c2 := rfl

@[simp] theorem commit_ready (c0 c1 c2 : RegConfig) : (s.commit c0 c1 c2).ready = true := rfl

@[simp] theorem commit_errNotReady (c0 c1 c2 : RegConfig) : (s.commit c0 c1 c2).errNotReady = s.errNotReady := rfl

@[simp] theorem commit_errIllegal (c0 c1 c2 : RegConfig) : (s.commit c0 c1 c2).errIllegal = s.errIllegal := rfl

@[simp] theorem commit_cfgCause (c0 c1 c2 : RegConfig) : (s.commit c0 c1 c2).cfgCause = .none := rfl

@[simp] theorem commit_cfgReg (c0 c1 c2 : RegConfig) : (s.commit c0 c1 c2).cfgReg = 0b00#2 := rfl

@[simp] theorem commit_bitOut (c0 c1 c2 : RegConfig) : (s.commit c0 c1 c2).bitOut = s.bitOut := rfl

@[simp] theorem commit_bitValid (c0 c1 c2 : RegConfig) : (s.commit c0 c1 c2).bitValid = s.bitValid := rfl

@[simp] theorem commit_pending (c0 c1 c2 : RegConfig) : (s.commit c0 c1 c2).pending = s.pending := rfl

/-! `extraClock` and `generate`. -/

@[simp] theorem extraClock_lmax (o : Option RegIdx) : (s.extraClock o).lmax = s.lmax := by
  cases o with
  | none => rfl
  | some i => exact clock_lmax s i

@[simp] theorem extraClock_wasReset (o : Option RegIdx) : (s.extraClock o).wasReset = s.wasReset := by
  cases o with
  | none => rfl
  | some i => exact clock_wasReset s i

@[simp] theorem extraClock_ready (o : Option RegIdx) : (s.extraClock o).ready = s.ready := by
  cases o with
  | none => rfl
  | some i => exact clock_ready s i

@[simp] theorem extraClock_errNotReady (o : Option RegIdx) : (s.extraClock o).errNotReady = s.errNotReady := by
  cases o with
  | none => rfl
  | some i => exact clock_errNotReady s i

@[simp] theorem extraClock_errIllegal (o : Option RegIdx) : (s.extraClock o).errIllegal = s.errIllegal := by
  cases o with
  | none => rfl
  | some i => exact clock_errIllegal s i

@[simp] theorem extraClock_cfgCause (o : Option RegIdx) : (s.extraClock o).cfgCause = s.cfgCause := by
  cases o with
  | none => rfl
  | some i => exact clock_cfgCause s i

@[simp] theorem extraClock_cfgReg (o : Option RegIdx) : (s.extraClock o).cfgReg = s.cfgReg := by
  cases o with
  | none => rfl
  | some i => exact clock_cfgReg s i

@[simp] theorem extraClock_bitOut (o : Option RegIdx) : (s.extraClock o).bitOut = s.bitOut := by
  cases o with
  | none => rfl
  | some i => exact clock_bitOut s i

@[simp] theorem extraClock_bitValid (o : Option RegIdx) : (s.extraClock o).bitValid = s.bitValid := by
  cases o with
  | none => rfl
  | some i => exact clock_bitValid s i

@[simp] theorem extraClock_pending (o : Option RegIdx) : (s.extraClock o).pending = s.pending := by
  cases o with
  | none => rfl
  | some i => exact clock_pending s i

@[simp] theorem generate_lmax : s.generate.lmax = s.lmax := by
  simp [State.generate]

@[simp] theorem generate_wasReset : s.generate.wasReset = s.wasReset := by
  simp [State.generate]

@[simp] theorem generate_ready : s.generate.ready = s.ready := by
  simp [State.generate]

@[simp] theorem generate_errNotReady : s.generate.errNotReady = s.errNotReady := by
  simp [State.generate]

@[simp] theorem generate_errIllegal : s.generate.errIllegal = s.errIllegal := by
  simp [State.generate]

@[simp] theorem generate_cfgCause : s.generate.cfgCause = s.cfgCause := by
  simp [State.generate]

@[simp] theorem generate_cfgReg : s.generate.cfgReg = s.cfgReg := by
  simp [State.generate]

@[simp] theorem generate_pending : s.generate.pending = s.pending := by
  simp [State.generate]

@[simp] theorem generate_bitValid : s.generate.bitValid = true := rfl

end Sys2Proof.Machine
end

