-- ==== Sys2Proof/Laws/Ops.lean ====
section
/-! SUPPORT. What each shared operation can do, said once: decoding, the clock primitive, the checks of `CFG`, the
combiner, the meanings, one step. -/

namespace Sys2Proof.Machine

/-! Decoding. -/

/-- The four opcodes are all there are. -/
theorem opcode_cases (op : BitVec 2) : op = 0b00#2 ∨ op = 0b01#2 ∨ op = 0b10#2 ∨ op = 0b11#2 := by
  revert op
  decide

/-- The operands on inputs of the right widths are well formed. -/
theorem operands_wellFormed {lmax : Nat} {b : RegBus} (h : b.fits lmax = true) :
    b.operands.wellFormed lmax = true := by
  simp only [RegBus.fits, Bool.and_eq_true, beq_iff_eq] at h
  have := bitsToNat_lt b.len
  simp [RegConfig.wellFormed, RegBus.operands, h.1.2, h.2, ← h.1.1, this]

/-- A command that decodes is well formed. -/
theorem decode_wellFormed {lmax : Nat} {c : Cycle} {i : Instr} (h : decode lmax c = .ok i) :
    i.wellFormed lmax = true := by
  unfold decode decodeCommand at h
  split_ifs at h with _ _ _ _ _ hf <;> cases h
  · rfl
  · rfl
  · simp only [Bool.and_eq_true] at hf
    simp [Instr.wellFormed, operands_wellFormed hf.1.1, operands_wellFormed hf.1.2, operands_wellFormed hf.2]
  · rfl

/-! The clock primitive. -/

@[simp] theorem clocked_len (r : ShiftReg) : r.clocked.len = r.len := rfl

@[simp] theorem clocked_tap (r : ShiftReg) : r.clocked.tap = r.tap := rfl

/-- A clock keeps the length of a content that is not empty (R25). -/
theorem clocked_content_length {r : ShiftReg} (h : 1 ≤ r.content.length) :
    r.clocked.content.length = r.content.length := by
  simp [ShiftReg.clocked]
  omega

theorem mem_tapPositions {r : ShiftReg} {p : Nat} :
    p ∈ r.tapPositions ↔ 1 ≤ p ∧ p ≤ r.len ∧ bitAt r.tap (p - 1) = true := by
  simp only [ShiftReg.tapPositions, List.mem_filter, List.mem_range'_1]
  constructor
  · rintro ⟨⟨h1, h2⟩, h3⟩
    exact ⟨h1, by omega, h3⟩
  · rintro ⟨h1, h2, h3⟩
    exact ⟨⟨h1, by omega⟩, h3⟩

/-! The checks of `CFG`. -/

/-- A register passes its checks exactly when its length is in `1..LMAX` and no tap bit at or above it is set. -/
theorem checkReg_eq_none_iff (lmax : Nat) (i : RegIdx) (c : RegConfig) :
    checkReg lmax i c = none ↔ 1 ≤ c.len ∧ c.len ≤ lmax ∧ sliceNonzero c.tap c.len = false := by
  unfold checkReg
  split_ifs with h1 h2 h3 <;> simp_all
  omega

theorem firstError_eq_none_iff (e0 e1 e2 : Option BlockError) :
    firstError e0 e1 e2 = none ↔ e0 = none ∧ e1 = none ∧ e2 = none := by
  cases e0 <;> cases e1 <;> cases e2 <;> simp [firstError]

/-- A `CFG` is accepted exactly when each register passes. -/
theorem checkCfg_eq_none_iff (lmax : Nat) (c0 c1 c2 : RegConfig) :
    checkCfg lmax c0 c1 c2 = none ↔
      checkReg lmax .r0 c0 = none ∧ checkReg lmax .r1 c1 = none ∧ checkReg lmax .r2 c2 = none :=
  firstError_eq_none_iff _ _ _

/-- What `checkReg` can answer. -/
theorem checkReg_cases {lmax : Nat} {i : RegIdx} {c : RegConfig} {e : BlockError} (h : checkReg lmax i c = some e) :
    e = .lenZero i ∨ e = .lenTooLong i ∨ e = .tapRange i := by
  unfold checkReg at h
  split_ifs at h <;> simp_all

/-- A `CFG` that fails fails with a configuration error of some register. -/
theorem checkCfg_cases {lmax : Nat} {c0 c1 c2 : RegConfig} {e : BlockError}
    (h : checkCfg lmax c0 c1 c2 = some e) :
    ∃ i, e = .lenZero i ∨ e = .lenTooLong i ∨ e = .tapRange i := by
  unfold checkCfg firstError at h
  split at h
  · rename_i e' he
    cases h
    exact ⟨_, checkReg_cases he⟩
  · rename_i e' _ he
    cases h
    exact ⟨_, checkReg_cases he⟩
  · exact ⟨_, checkReg_cases h⟩

/-! The combiner and `GEN`. -/

/-- What `combine` can answer (R103, R104, R105). -/
theorem combine_cases (d f s : Bool) :
    (f = s ∧ combine d f s = (d, none)) ∨ (f ≠ s ∧ d = true ∧ combine d f s = (f, some .r2)) ∨
      (f ≠ s ∧ d = false ∧ combine d f s = (s, some .r1)) := by
  cases d <;> cases f <;> cases s <;> decide

/-- The whole state a producing `GEN` leaves. -/
theorem generate_eq (s : State) :
    s.generate =
      match combine s.decider.front s.first.front s.second.front with
      | (o, none) =>
        { s with decider := s.decider.clocked, first := s.first.clocked, second := s.second.clocked,
                 bitOut := o, bitValid := true }
      | (o, some .r0) =>
        { s with decider := s.decider.clocked.clocked, first := s.first.clocked, second := s.second.clocked,
                 bitOut := o, bitValid := true }
      | (o, some .r1) =>
        { s with decider := s.decider.clocked, first := s.first.clocked.clocked, second := s.second.clocked,
                 bitOut := o, bitValid := true }
      | (o, some .r2) =>
        { s with decider := s.decider.clocked, first := s.first.clocked, second := s.second.clocked.clocked,
                 bitOut := o, bitValid := true } := by
  simp only [State.generate, State.clock, reg_r0, reg_r1, reg_r2, setReg_r0, setReg_r1, setReg_r2]
  rcases combine s.decider.front s.first.front s.second.front with ⟨o, _ | i⟩
  · rfl
  · cases i <;> rfl

/-! The meanings: every command answers a next state. -/

/-- What an accepted command can do. -/
theorem exec_cases {i : Instr} {s t : State} (h : exec i s = .next t) :
    (i = .nop ∧ t = s.clearBitValid)
      ∨ (i = .gen ∧ s.ready = true ∧ t = s.generate)
      ∨ (i = .gen ∧ s.ready = false ∧ t = (s.raise .notReady).clearBitValid)
      ∨ (∃ c0 c1 c2, i = .cfg c0 c1 c2 ∧ checkCfg s.lmax c0 c1 c2 = none ∧ t = (s.commit c0 c1 c2).clearBitValid)
      ∨ (∃ c0 c1 c2 e, i = .cfg c0 c1 c2 ∧ checkCfg s.lmax c0 c1 c2 = some e ∧ t = (s.raise e).clearBitValid)
      ∨ (i = .reserved ∧ t = (s.raise .illegal).clearBitValid) := by
  cases i with
  | nop =>
    cases h
    exact .inl ⟨rfl, rfl⟩
  | gen =>
    cases h
    cases hr : s.ready with
    | true => exact .inr (.inl ⟨rfl, rfl, by simp⟩)
    | false => exact .inr (.inr (.inl ⟨rfl, rfl, by simp⟩))
  | cfg c0 c1 c2 =>
    cases h
    cases hc : checkCfg s.lmax c0 c1 c2 with
    | none => exact .inr (.inr (.inr (.inl ⟨c0, c1, c2, rfl, hc, rfl⟩)))
    | some e => exact .inr (.inr (.inr (.inr (.inl ⟨c0, c1, c2, e, rfl, hc, rfl⟩))))
  | reserved =>
    cases h
    exact .inr (.inr (.inr (.inr (.inr ⟨rfl, rfl⟩))))

/-! One step. -/

/-- What a step that answers a next state can be: a reset, an idle cycle, or a command. -/
theorem step_cases {s t : State} (h : step s = .next t) :
    ∃ c rest, s.pending = c :: rest ∧
      ((decode s.lmax c = .error .resetCycle ∧ t = State.applyReset { s with pending := rest })
        ∨ (decode s.lmax c = .error .idleCycle ∧ s.wasReset = true
            ∧ t = State.clearBitValid { s with pending := rest })
        ∨ (∃ i, decode s.lmax c = .ok i ∧ s.wasReset = true ∧ exec i { s with pending := rest } = .next t)) := by
  unfold step State.takeCycle at h
  cases hp : s.pending with
  | nil =>
    rw [hp] at h
    cases h
  | cons c rest =>
    rw [hp] at h
    refine ⟨c, rest, rfl, ?_⟩
    cases hd : decode s.lmax c with
    | ok i =>
      simp only [hd] at h
      split_ifs at h with hw
      exact .inr (.inr ⟨i, rfl, hw, h⟩)
    | error e =>
      cases e with
      | resetCycle =>
        simp only [hd] at h
        cases h
        exact .inl ⟨rfl, rfl⟩
      | idleCycle =>
        simp only [hd] at h
        split_ifs at h with hw
        cases h
        exact .inr (.inl ⟨rfl, hw, rfl⟩)
      | busWidth =>
        simp only [hd] at h
        cases h

end Sys2Proof.Machine
end

