-- ==== Sys2Proof/Laws/PerInstr.lean ====
section
/-! SUPPORT. A statement about every instruction, one lemma per constructor: the cycle the encoder gives a well-formed
instruction drives every port at its width (R63). -/

namespace Sys2Proof.Laws.EncodeWidth

/-- The encoded cycle drives every configuration input at the width of R63. -/
def Statement (i : Instr) : Prop :=
  ∀ lmax, i.wellFormed lmax = true →
    (encode lmax i).bus0.fits lmax = true ∧ (encode lmax i).bus1.fits lmax = true
      ∧ (encode lmax i).bus2.fits lmax = true

theorem allZero_fits (lmax : Nat) : (RegBus.allZero lmax).fits lmax = true := by
  simp [RegBus.fits, RegBus.allZero]

theorem drive_fits {lmax : Nat} {c : RegConfig} (h : c.wellFormed lmax = true) : (c.drive lmax).fits lmax = true := by
  simp only [RegConfig.wellFormed, Bool.and_eq_true, beq_iff_eq] at h
  simp [RegBus.fits, RegConfig.drive, h.1.2, h.2]

theorem nop : Statement .nop := fun lmax _ => ⟨allZero_fits lmax, allZero_fits lmax, allZero_fits lmax⟩

theorem gen : Statement .gen := fun lmax _ => ⟨allZero_fits lmax, allZero_fits lmax, allZero_fits lmax⟩

theorem cfg (c0 c1 c2 : RegConfig) : Statement (.cfg c0 c1 c2) := by
  intro lmax h
  simp only [Instr.wellFormed, Bool.and_eq_true] at h
  exact ⟨drive_fits h.1.1, drive_fits h.1.2, drive_fits h.2⟩

theorem reserved : Statement .reserved := fun lmax _ => ⟨allZero_fits lmax, allZero_fits lmax, allZero_fits lmax⟩

end Sys2Proof.Laws.EncodeWidth
end

