-- ==== Sys2Proof/Laws/Run.lean ====
section
/-! SUPPORT. One cycle and a run of cycles: what the first cycle of a trace is, and what it hands on. -/

namespace Sys2Proof.Machine

/-- The step of a block that has been reset, at a cycle that carries a command. -/
theorem step_command {s : State} {c : Cycle} {rest : List Cycle} {i : Instr} (hp : s.pending = c :: rest)
    (hw : s.wasReset = true) (hd : decode s.lmax c = .ok i) : step s = exec i { s with pending := rest } := by
  simp [step, State.takeCycle, hp, hw, hd]

/-- The step at a reset cycle: the reset state, whatever the state was. -/
theorem step_reset {s : State} {c : Cycle} {rest : List Cycle} (hp : s.pending = c :: rest) (hr : c.rst = true) :
    step s = .next (State.resetOf s.lmax rest) := by
  simp [step, State.takeCycle, hp, decode, hr, State.applyReset]

/-- The trace of a cycle that answers a next state. -/
theorem trace_of_next {fuel : Nat} {s t : State} {c : Cycle} {rest : List Cycle} {l : List (Cycle × State)}
    (hp : s.pending = c :: rest) (hs : step s = .next t) (ht : trace fuel t = .next l) :
    trace (fuel + 1) s = .next ((c, t) :: l) := by
  simp [trace, State.takeCycle, hp, hs, ht]

/-- What a trace that does not stop begins with. -/
theorem trace_next_inv {fuel : Nat} {s : State} {c : Cycle} {rest : List Cycle} {l : List (Cycle × State)}
    (hp : s.pending = c :: rest) (h : trace (fuel + 1) s = .next l) :
    ∃ t l', step s = .next t ∧ trace fuel t = .next l' ∧ l = (c, t) :: l' := by
  simp only [trace, State.takeCycle, hp] at h
  cases hs : step s with
  | fault r => simp [hs] at h
  | refused r => simp [hs] at h
  | next t =>
    cases ht : trace fuel t with
    | fault r => simp [hs, ht] at h
    | refused r => simp [hs, ht] at h
    | next l' =>
      simp only [hs, ht, Host.Outcome.next.injEq] at h
      exact ⟨t, l', rfl, ht, h.symm⟩

@[simp] theorem producedBits_nil : producedBits [] = [] := rfl

theorem producedBits_cons (c : Cycle) (t : State) (l : List (Cycle × State)) :
    producedBits ((c, t) :: l) = t.producedBit.toList ++ producedBits l := by
  simp only [producedBits, List.filterMap_cons]
  cases t.producedBit <;> simp

@[simp] theorem finalState_nil (s : State) : finalState s [] = s := rfl

/-- A trace ends where what follows its first cycle ends. -/
@[simp] theorem finalState_cons (s t : State) (c : Cycle) (l : List (Cycle × State)) :
    finalState s ((c, t) :: l) = finalState t l := by
  cases l <;> simp [finalState, List.getLast?_cons]

/-- What one more cycle does to the keystream. -/
theorem keystream_concat (l : List (Cycle × State)) (e : Cycle × State) :
    keystream (l ++ [e]) = if cfgSucceeded e then [] else keystream l ++ e.2.producedBit.toList := by
  simp [keystream]

end Sys2Proof.Machine
end

