-- ==== Sys2Proof/Tests/Slice0.lean ====
section
/-! SUPPORT. The model's own tests. Expected values are taken from spec/95_test_vectors.md (its vectors are named
V-…, its programs P…) or worked out by hand from the rule a comment names. The last part shows, for every statement
with hypotheses, a concrete input that meets them, for each of its clauses. -/

namespace Sys2Proof.Tests

open Sys2Proof.Machine

/-! ## Helpers -/

/-- A bus of 8 bits with the given value. -/
def bus8 (n : Nat) : Bits := natToBits 8 n

/-- The operands of one register at `LMAX = 8`, as the vectors write them: (len, fill, tap). -/
def regCfg (len fill tap : Nat) : RegConfig := { len := len, fill := bus8 fill, tap := bus8 tap }

/-- A register with the given content and tap mask, at `LMAX = 8`. -/
def reg8 (content : Bits) (tap : Nat) : ShiftReg := { content := content, len := content.length, tap := bus8 tap }

/-- A block with `LMAX = 8` and `READY = 1` that holds the three registers. -/
def readyWith (d f s : ShiftReg) : State :=
  { State.resetOf 8 [] with decider := d, first := f, second := s, ready := true }

/-- The start of V-G1 to V-G8: all registers of length 3 with tap position 3 alone. -/
def rotating (d f s : Bool) : State := readyWith (reg8 [d, false, true] 4) (reg8 [f, false, true] 4) (reg8 [s, true, false] 4)

/-- A block with `LMAX = 1` and `READY = 1`: the smallest there is. -/
def smallest : State :=
  { State.resetOf 1 [] with
    decider := { content := [true], len := 1, tap := [true] }
    first := { content := [false], len := 1, tap := [false] }
    second := { content := [true], len := 1, tap := [true] }
    ready := true }

/-- The next state, if the answer is one. -/
def next? : Host.Outcome State Fault Refusal → Option State
  | .next s => some s
  | .fault _ => none
  | .refused _ => none

/-- `s` with the cycles presented to it. -/
def feed (s : State) (cycles : List Cycle) : State := { s with pending := cycles }

/-- The operands of V-F1, which R75 gives as its example too. -/
def vf1 : Instr := .cfg (regCfg 2 0x02 0x03) (regCfg 2 0x01 0x03) (regCfg 2 0x02 0x03)

/-- A reset cycle whose other inputs ask for a `GEN` (V-K5). -/
def resetCycle : Cycle := { bareCycle 8 0b01#2 with rst := true }

/-- A cycle without a command, whose opcode wires carry `GEN` (V-K2). -/
def idleCycle : Cycle := { bareCycle 8 0b01#2 with cmdValid := false }

/-! ## Well-formedness: one ill-formed term for each check -/

theorem test_wellFormed_accepts : vf1.wellFormed 8 = true := by decide

/-- A length of 16 does not fit the 4 wires of `W_LEN` at `LMAX = 8` (R13, R63). -/
theorem test_wellFormed_length :
    (Instr.cfg (regCfg 16 0 0) (regCfg 2 1 3) (regCfg 2 2 3)).wellFormed 8 = false := by decide

theorem test_wellFormed_fill :
    (Instr.cfg (regCfg 2 2 3) { len := 2, fill := [true, false], tap := bus8 3 } (regCfg 2 2 3)).wellFormed 8 = false := by
  decide

theorem test_wellFormed_tap :
    (Instr.cfg (regCfg 2 2 3) (regCfg 2 1 3) { len := 2, fill := bus8 2, tap := zeros 9 }).wellFormed 8 = false := by
  decide

/-- A length above `LMAX` that fits its wires reaches the block (R68). -/
theorem test_wellFormed_long_length : (Instr.cfg (regCfg 15 0 0) (regCfg 0 0 0) (regCfg 9 0 0)).wellFormed 8 = true := by
  decide

/-! ## Decoding, from the encodings of 30_encoding.md -/

theorem test_decode_table_words :
    decodeTableWord 8 0 = some .nop ∧ decodeTableWord 8 1 = some .gen ∧ decodeTableWord 8 3 = some .reserved
      ∧ decodeTableWord 8 2 = some (.cfg (regCfg 0 0 0) (regCfg 0 0 0) (regCfg 0 0 0)) := by
  decide

/-- A `CFG` written out wire by wire, bit 0 first: length 9 (wires 3 and 0), fill 0xA5, taps 0x81 for register 0;
length 15 and all ones for register 1; length 1, fill 1 and no tap for register 2 (R63, R68, R69, R70). -/
theorem test_decode_cfg_wires :
    decode 8
        { rst := false, cmdValid := true, cmdOp := 0b10#2
          bus0 := { len := [true, false, false, true]
                    fill := [true, false, true, false, false, true, false, true]
                    tap := [true, false, false, false, false, false, false, true] }
          bus1 := { len := [true, true, true, true]
                    fill := [true, true, true, true, true, true, true, true]
                    tap := [true, true, true, true, true, true, true, true] }
          bus2 := { len := [true, false, false, false]
                    fill := [true, false, false, false, false, false, false, false]
                    tap := [false, false, false, false, false, false, false, false] } }
      = .ok (.cfg (regCfg 9 0xA5 0x81) (regCfg 15 0xFF 0xFF) (regCfg 1 0x01 0x00)) := by
  decide

/-- Reset and idle cycles carry no command (R65), and a bus of the wrong width carries no `CFG`. -/
theorem test_decode_no_command :
    decode 8 resetCycle = .error .resetCycle ∧ decode 8 idleCycle = .error .idleCycle
      ∧ decode 8 (encode 7 (.cfg (regCfg 0 0 0) (regCfg 0 0 0) (regCfg 0 0 0))) = .error .busWidth := by
  decide

/-- R13 gives `W_LEN = 4` for `LMAX = 8`; the smallest widths for 1, 7 and 16 are worked out by hand. -/
theorem test_lenWidth : lenWidth 8 = 4 ∧ lenWidth 7 = 3 ∧ lenWidth 1 = 1 ∧ lenWidth 16 = 5 := by decide

/-! ## The clock primitive -/

/-- V-C3 and V-C2: position 1 reads the back cell, position `L` the front cell. -/
theorem test_clock_index_reading :
    (reg8 [true, true, false] 0x01).clocked.content = [true, false, false]
      ∧ (reg8 [true, false, false] 0x04).clocked.content = [false, false, true] := by
  decide

/-- V-C6, V-C9 and V-C10. -/
theorem test_clock_vectors :
    (reg8 [false, true, true] 0x02).clocked.content = [true, true, true]
      ∧ (reg8 [true] 0x00).clocked.content = [false]
      ∧ (reg8 [true, true, false, true] 0x0F).clocked.content = [true, false, true, true]
      ∧ (reg8 [true, true, false, true] 0x0F).front = true := by
  decide

/-! ## The commands, one step each -/

/-- V-K1. -/
theorem test_nop :
    next? (execNop { rotating true true true with bitOut := true, bitValid := true })
      = some { rotating true true true with bitOut := true } := by
  decide

/-- V-K3: 0x03 becomes 0x07. -/
theorem test_reserved :
    (next? (execReserved { rotating true true true with errNotReady := true, bitValid := true })).map
        (fun t => (t.status, t.bitValid)) = some (0x07#8, false) := by
  decide

/-- V-G3: `d = 0`, `f != s`: the output is `s`, the first register is clocked twice. -/
theorem test_gen_first_twice :
    (next? (execGen (rotating false true false))).bind State.ports
        = some
            { bitOut := false, bitValid := true, status := 0x01#8
              r0q := bus8 0x2, r1q := bus8 0x3, r2q := bus8 0x1
              len0q := natToBits 4 3, len1q := natToBits 4 3, len2q := natToBits 4 3
              tap0q := bus8 0x4, tap1q := bus8 0x4, tap2q := bus8 0x4 } := by
  decide

/-- V-G6 and V-G8: `d = 1`: with `f != s` the output is `f` and the second register is clocked twice; with `f == s` the
output is `d`. -/
theorem test_gen_second_twice :
    ((next? (execGen (rotating true false true))).map fun t => (t.bitOut, t.second.content))
        = some (false, [false, true, true])
      ∧ ((next? (execGen (rotating true true true))).map fun t => (t.bitOut, t.second.content))
        = some (true, [true, false, true]) := by
  decide

/-- V-F5: fills and masks at both ends of the range, and the status word. -/
theorem test_cfg_accepted :
    ((next? (execCfg (regCfg 8 0xA5 0xFF) (regCfg 1 0x01 0x01) (regCfg 1 0x00 0x00) (State.resetOf 8 []))).map
        fun t => (t.decider.content, t.first.content, t.second.content, t.status))
      = some ([true, false, true, false, false, true, false, true], [true], [false], 0x01#8) := by
  decide

/-- V-F10: a rejected `CFG` on a running generator. -/
theorem test_cfg_rejected :
    ((next? (execCfg (regCfg 3 0 8) (regCfg 3 0 0) (regCfg 3 0 0)
        { rotating true true false with errNotReady := true, errIllegal := true })).map
        fun t => (t.decider, t.status))
      = some ((rotating true true false).decider, 0x37#8) := by
  decide

/-! ## One cycle -/

/-- V-K5: reset wins over the command beside it, and every port reads 0. -/
theorem test_step_reset :
    (next? (step (feed { rotating true true true with errIllegal := true, bitOut := true } [resetCycle]))).bind State.ports
      = some
          { bitOut := false, bitValid := false, status := 0x00#8, r0q := bus8 0, r1q := bus8 0, r2q := bus8 0
            len0q := natToBits 4 0, len1q := natToBits 4 0, len2q := natToBits 4 0
            tap0q := bus8 0, tap1q := bus8 0, tap2q := bus8 0 } := by
  decide

/-- V-K2 and V-G9: an idle cycle ignores its opcode wires; the first `GEN` after reset is refused. -/
theorem test_step_idle_and_refused :
    next? (step (feed { rotating true true true with bitOut := true, bitValid := true } [idleCycle]))
        = some { rotating true true true with bitOut := true }
      ∧ (next? (step (State.reset.withFetchWord 8 1))).map State.status = some 0x02#8 := by
  decide

/-- Each row of the opcode table runs as the first command after reset. -/
theorem test_step_table_rows :
    ((next? (step (State.reset.withFetchWord 8 0))).map State.status,
      (next? (step (State.reset.withFetchWord 8 2))).map State.status,
      (next? (step (State.reset.withFetchWord 8 3))).map State.status)
      = (some 0x00#8, some 0x10#8, some 0x04#8) := by
  decide

/-- R143: what is observed of reset, a rejected `CFG` (V-F2), V-F1's `CFG` and one `GEN` (P1, cycle 2). -/
theorem test_observe :
    (match observeRun (rotating true true true)
        [resetCycle, encode 8 (.cfg (regCfg 0 0 0) (regCfg 2 1 3) (regCfg 2 2 3)), encode 8 vf1, encode 8 .gen] with
      | .next o => some (o.bits, o.cfgStatus, o.final.decider.content)
      | _ => none) = some ([false], [0x10#8, 0x01#8], [true, true]) := by
  decide

/-- R49: the keystream starts anew at a successful `CFG` (P4, cycles 1 to 5, at the registers of V-F1): the bits of the
first configuration are observed but belong to an earlier keystream. -/
theorem test_keystream_restarts :
    (match trace 4 (feed (State.resetOf 8 []) [encode 8 vf1, encode 8 .gen, encode 8 vf1, encode 8 .gen]) with
      | .next l => some (producedBits l, keystream l)
      | _ => none) = some ([false, false], [false]) := by
  decide

/-- R49: a reset takes nothing from the keystream of the last successful `CFG` (P1, cycles 1 to 3: bits 0 and 1). -/
theorem test_keystream_outlives_reset :
    (match trace 4 (feed (State.resetOf 8 []) [encode 8 vf1, encode 8 .gen, encode 8 .gen, resetCycle]) with
      | .next l => some (keystream l)
      | _ => none) = some [false, true] := by
  decide

/-! ## The assembler -/

/-- The example of R75, list form and raw form, and a comment. -/
theorem test_assemble_cfg :
    (assembleText 8 "CFG [0,1]/[1,2], [1,0]/[1,2], [0,1]/[1,2] ; P1".toList).toOption = some [encode 8 vf1] := by
  decide

theorem test_assemble_raw :
    (assembleText 8 ("CFG.RAW len0=2, fill0=0x02, tap0=0x03, len1=2, fill1=0x01, tap1=0x03, ".toList
        ++ "len2=2, fill2=0x02, tap2=0x03".toList)).toOption = some [encode 8 vf1] := by
  decide

/-- R75, R76, R93: `KEYSTREAM`, a line that is none of the spellings, and a list form with tap position 3 above the
length 2 of register 1, which is turned away with the error the block would give. -/
theorem test_assemble_others :
    assembleLine 8 (.keystream 2) = .ok [encode 8 .gen, encode 8 .gen]
      ∧ parseLine [.word ['G', 'E', 'N'], .num 3] = none
      ∧ convertList 8 { fill := [false, true], taps := [1, 2] } { fill := [true, false], taps := [3] }
          { fill := [], taps := [] } = .error (.tapRange .r1) := by
  decide

/-! ## Every statement's hypotheses can be met

A theorem `witness_<Statement>` gives inputs that meet the hypotheses of `Obligations.<Statement>`, one for each of its
clauses. -/

theorem witness_ResetCycleClearsEveryElement :
    (feed (rotating true true true) [resetCycle]).pending = resetCycle :: [] ∧ resetCycle.rst = true := by
  decide

theorem witness_NothingBeforeFirstReset :
    ((rotating true true true).powerUp [encode 8 .gen]).wasReset = false
      ∧ ((rotating true true true).powerUp [encode 8 .gen]).pending = encode 8 .gen :: []
      ∧ (encode 8 .gen).rst = false ∧ (encode 8 .gen).bus0.fits 8 = true
      ∧ (encode 8 .gen).bus1.fits 8 = true ∧ (encode 8 .gen).bus2.fits 8 = true := by
  decide

theorem witness_PowerUpContentsNeverMatter :
    (rotating true true true).lmax = (State.resetOf 8 []).lmax ∧ resetCycle.rst = true := by
  decide

theorem witness_NoCycleNoStep : State.reset.pending = [] := by decide

theorem witness_StepRunsTheDecodedCommand :
    (feed (rotating true true true) [encode 8 vf1]).pending = encode 8 vf1 :: []
      ∧ (rotating true true true).wasReset = true ∧ decode 8 (encode 8 vf1) = .ok vf1
      ∧ decode 8 (encode 8 .gen) = .ok .gen := by
  decide

theorem witness_IdleCycleActsAsNop :
    (feed (rotating true true true) [idleCycle]).pending = idleCycle :: []
      ∧ (rotating true true true).wasReset = true ∧ idleCycle.rst = false ∧ idleCycle.cmdValid = false := by
  decide

theorem witness_StepTakesOneCycleAndKeepsLmax :
    next? (step (feed State.reset [encode 8 .nop])) = some State.reset := by
  decide

theorem witness_OpcodeMapDecodes :
    (encode 8 .nop).rst = false ∧ (encode 8 .nop).cmdValid = true ∧ (encode 8 .nop).cmdOp = 0b00#2
      ∧ (encode 8 .gen).rst = false ∧ (encode 8 .gen).cmdValid = true ∧ (encode 8 .gen).cmdOp = 0b01#2
      ∧ (encode 8 .reserved).rst = false ∧ (encode 8 .reserved).cmdValid = true
      ∧ (encode 8 .reserved).cmdOp = 0b11#2
      ∧ (encode 8 vf1).rst = false ∧ (encode 8 vf1).cmdValid = true ∧ (encode 8 vf1).cmdOp = 0b10#2
      ∧ (encode 8 vf1).bus0.fits 8 = true ∧ (encode 8 vf1).bus1.fits 8 = true ∧ (encode 8 vf1).bus2.fits 8 = true := by
  decide

/-- The ends of each operand's range: length 0 and 15, buses of zeros and of ones. -/
theorem witness_DecodeInvertsEncode :
    (Instr.cfg (regCfg 0 0x00 0x00) (regCfg 15 0xFF 0xFF) (regCfg 8 0xA5 0x80)).wellFormed 8 = true
      ∧ Instr.gen.wellFormed 8 = true := by
  decide

theorem witness_EncodeInvertsDecodeOfCfg :
    decode 8 (encode 8 (.cfg (regCfg 0 0x00 0x00) (regCfg 15 0xFF 0xFF) (regCfg 8 0xA5 0x80)))
      = .ok (.cfg (regCfg 0 0x00 0x00) (regCfg 15 0xFF 0xFF) (regCfg 8 0xA5 0x80)) := by
  decide

/-- A register of length `LMAX = 8`, and one of length 1. -/
theorem witness_ClockShiftsAndAppendsParity :
    let s := readyWith (reg8 [true, false, true, false, false, true, false, true] 0xFF) (reg8 [true] 1) (reg8 [false] 0)
    (s.reg .r0).content.length = (s.reg .r0).len ∧ 1 ≤ (s.reg .r0).len ∧ (s.reg .r0).len = s.lmax
      ∧ (s.reg .r1).content.length = (s.reg .r1).len ∧ 1 ≤ (s.reg .r1).len ∧ (s.reg .r1).len = 1 := by
  decide

theorem witness_ClockOrderIsNotObservable :
    [RegIdx.r2, .r0, .r1].Perm [.r0, .r1, .r2] ∧ [RegIdx.r2, .r0, .r1] = [.r2, .r0] ++ .r1 :: [] := by
  decide

/-- V-C11: a list with repeats; the fill is as long as `LMAX` in the second case. -/
theorem witness_MaskFeedbackEqualsListFeedback :
    [true, false, false].length ≤ 8 ∧ (∀ p ∈ [3, 3, 1], 1 ≤ p ∧ p ≤ [true, false, false].length)
      ∧ [true].length ≤ 1 ∧ ∀ p ∈ [1], 1 ≤ p ∧ p ≤ [true].length := by
  decide

theorem witness_RegisterOutputRecurrence :
    (reg8 [true, false, false] 0x05).content.length = (reg8 [true, false, false] 0x05).len
      ∧ 1 ≤ (reg8 [true, false, false] 0x05).len ∧ 1 ≤ (reg8 [true] 0x01).len := by
  decide

theorem witness_NoTapsDrainAndZerosStay :
    (reg8 [true, false, true] 0x00).content.length = (reg8 [true, false, true] 0x00).len
      ∧ 1 ≤ (reg8 [true, false, true] 0x00).len ∧ (reg8 [true, false, true] 0x00).tapPositions = []
      ∧ (reg8 [false, false] 0x03).content.length = (reg8 [false, false] 0x03).len
      ∧ 1 ≤ (reg8 [false, false] 0x03).len ∧ (reg8 [false, false] 0x03).content = zeros 2 := by
  decide

theorem witness_FrontTapRotates :
    (reg8 [true, false, true] 0x04).content.length = (reg8 [true, false, true] 0x04).len
      ∧ (reg8 [true, false, true] 0x04).tapPositions = [3]
      ∧ (reg8 [true] 0x01).content.length = 1 ∧ (reg8 [true] 0x01).len = 1 ∧ (reg8 [true] 0x01).tapPositions = [1] := by
  decide

theorem witness_BackTapCopiesAndAllTapsSum :
    (reg8 [true, false] 0x01).content.length = (reg8 [true, false] 0x01).len ∧ 2 ≤ (reg8 [true, false] 0x01).len
      ∧ (reg8 [true, false] 0x01).tapPositions = [1]
      ∧ (reg8 [true, false, true] 0x07).content.length = 3 ∧ 2 ≤ (reg8 [true, false, true] 0x07).len
      ∧ (reg8 [true, false, true] 0x07).tapPositions = List.range' 1 3 := by
  decide

/-- Lengths 1 and `LMAX`, with every tap bit the length admits set (V-F5). -/
theorem witness_CfgLoadsAcceptedConfiguration :
    ∀ c ∈ [regCfg 8 0xA5 0xFF, regCfg 1 0x01 0x01, regCfg 1 0x00 0x00],
      1 ≤ c.len ∧ c.len ≤ 8 ∧ c.tap.length = 8 ∧ ∀ k, c.len ≤ k → k < 8 → bitAt c.tap k = false := by
  have h : ∀ c ∈ [regCfg 8 0xA5 0xFF, regCfg 1 0x01 0x01, regCfg 1 0x00 0x00],
      1 ≤ c.len ∧ c.len ≤ 8 ∧ c.tap.length = 8 ∧ ∀ k < 8, c.len ≤ k → bitAt c.tap k = false := by
    decide
  exact fun c hc => ⟨(h c hc).1, (h c hc).2.1, (h c hc).2.2.1, fun k hk hl => (h c hc).2.2.2 k hl hk⟩

/-- V-F6 (length 0), V-F3 (length `LMAX + 1`), V-F8 (the tap bit just above the length). -/
theorem witness_CfgRejectedChangesOnlyItsResult :
    (regCfg 0 0x00 0x01).len = 0 ∧ 8 < (regCfg 9 0x00 0x00).len
      ∧ (regCfg 2 0x02 0x04).len ≤ 2 ∧ 2 < 8 ∧ bitAt (regCfg 2 0x02 0x04).tap 2 = true := by
  decide

/-- V-F2, V-F11, V-F8; V-F7, V-F3, V-F13; register 2 likewise (V-F4); and V-F1: one for each outcome, each well
formed. -/
theorem witness_CfgReportsFirstFailingCheck :
    (Instr.cfg (regCfg 0 0 0) (regCfg 2 1 3) (regCfg 2 2 3)).wellFormed 8 = true
      ∧ (Instr.cfg (regCfg 15 0 0) (regCfg 2 1 3) (regCfg 2 2 3)).wellFormed 8 = true
      ∧ (Instr.cfg (regCfg 2 2 4) (regCfg 2 1 3) (regCfg 2 2 3)).wellFormed 8 = true
      ∧ (Instr.cfg (regCfg 2 2 3) (regCfg 0 0 0) (regCfg 2 2 4)).wellFormed 8 = true
      ∧ (Instr.cfg (regCfg 2 2 3) (regCfg 9 0 0) (regCfg 2 2 3)).wellFormed 8 = true
      ∧ (Instr.cfg (regCfg 2 2 3) (regCfg 3 1 0x80) (regCfg 2 2 3)).wellFormed 8 = true
      ∧ (Instr.cfg (regCfg 2 2 3) (regCfg 2 1 3) (regCfg 0 0 0)).wellFormed 8 = true
      ∧ (Instr.cfg (regCfg 2 2 3) (regCfg 2 1 3) (regCfg 9 0 0)).wellFormed 8 = true
      ∧ (Instr.cfg (regCfg 2 2 3) (regCfg 2 1 3) (regCfg 3 1 8)).wellFormed 8 = true
      ∧ vf1.wellFormed 8 = true := by
  decide

/-- V-F9: two fills that differ at and above the length only. -/
theorem witness_FillBitsAboveLengthIgnored :
    ∀ e ∈ [(regCfg 2 0xFF 3, regCfg 2 0x03 3), (regCfg 2 1 3, regCfg 2 5 3), (regCfg 8 2 3, regCfg 8 2 3)],
      e.1.len = e.2.len ∧ e.1.tap = e.2.tap ∧ e.1.fill.length = e.2.fill.length
        ∧ ∀ j, j < e.1.len → bitAt e.1.fill j = bitAt e.2.fill j := by
  decide

/-- For the second clause of each: a cycle with that opcode, before a block that has been reset. -/
theorem witness_NopClearsOnlyBitValid_and_ReservedSetsErrIllegal :
    (feed State.reset [encode 8 .nop]).pending = encode 8 .nop :: [] ∧ State.reset.wasReset = true
      ∧ (encode 8 .nop).rst = false ∧ (encode 8 .nop).cmdValid = true ∧ (encode 8 .nop).cmdOp = 0b00#2
      ∧ (feed State.reset [encode 8 .reserved]).pending = encode 8 .reserved :: []
      ∧ (encode 8 .reserved).rst = false ∧ (encode 8 .reserved).cmdValid = true
      ∧ (encode 8 .reserved).cmdOp = 0b11#2 := by
  decide

theorem witness_GenRefusedWhileNotReady : State.reset.ready = false := by decide

/-- One state for each branch of the combiner (V-G1, V-G7, V-G3). -/
theorem witness_GenClocksAndOutputs :
    (∀ s ∈ [rotating false false false, rotating true true false, rotating false true false],
      ∀ i ∈ [RegIdx.r0, .r1, .r2], (s.reg i).content.length = (s.reg i).len ∧ 1 ≤ (s.reg i).len)
      ∧ (rotating false false false).ready = true
      ∧ bitAt (rotating false false false).first.content 0 = bitAt (rotating false false false).second.content 0
      ∧ (rotating true true false).ready = true
      ∧ bitAt (rotating true true false).first.content 0 ≠ bitAt (rotating true true false).second.content 0
      ∧ bitAt (rotating true true false).decider.content 0 = true
      ∧ (rotating false true false).ready = true
      ∧ bitAt (rotating false true false).first.content 0 ≠ bitAt (rotating false true false).second.content 0
      ∧ bitAt (rotating false true false).decider.content 0 = false := by
  decide

/-- The invariant at a running block, at `LMAX = 1`, and at reset. -/
theorem witness_PortsShowTheState : (rotating true false true).Inv ∧ smallest.Inv ∧ State.reset.Inv :=
  ⟨by decide, by decide, by decide⟩

theorem witness_StepKeepsInvariant :
    (feed (rotating true false true) [encode 8 .gen]).Inv
      ∧ (next? (step (feed (rotating true false true) [encode 8 .gen]))).isSome = true
      ∧ (feed smallest [encode 1 .gen]).Inv ∧ (next? (step (feed smallest [encode 1 .gen]))).isSome = true := by
  decide

theorem witness_ResetMeetsInvariant : 1 ≤ 1 ∧ (State.resetOf 1 [encode 1 .gen]).Inv := by decide

/-- A producing `GEN`, and a cycle that is none, with its bit kept. -/
theorem witness_BitValidOnlyAfterProducingGen :
    (next? (step (feed (rotating true false true) [encode 8 .gen]))).isSome = true
      ∧ decode 8 (encode 8 .gen) = .ok .gen ∧ (rotating true false true).ready = true
      ∧ (next? (step (feed (rotating true false true) [encode 8 .nop]))).isSome = true
      ∧ (encode 8 .nop).rst = false ∧ decode 8 (encode 8 .nop) ≠ .ok .gen := by
  decide

/-- A refused `GEN`, a reserved opcode, a reset. -/
theorem witness_StickyErrorsSetAndKept :
    (next? (step (feed State.reset [encode 8 .gen]))).isSome = true ∧ (encode 8 .gen).rst = false
      ∧ (next? (step (feed State.reset [encode 8 .reserved]))).isSome = true ∧ (encode 8 .reserved).rst = false
      ∧ (next? (step (feed State.reset [resetCycle]))).isSome = true ∧ resetCycle.rst = true := by
  decide

/-- A `CFG` that is accepted, and a command that is no `CFG`. -/
theorem witness_ReadyAndCfgResultOnlyByCfg :
    (next? (step (feed State.reset [encode 8 vf1]))).isSome = true ∧ (encode 8 vf1).rst = false
      ∧ (next? (step (feed State.reset [encode 8 .nop]))).isSome = true ∧ (encode 8 .nop).rst = false
      ∧ decode 8 (encode 8 .nop) = .ok .nop := by
  decide

/-- A producing `GEN`; a rejected `CFG`, which is no `GEN` and leaves a result other than `NONE`. -/
theorem witness_RegistersOnlyByCfgAndGen :
    (feed (rotating true false true) [encode 8 .gen]).Inv ∧ (encode 8 .gen).rst = false
      ∧ (next? (step (feed (rotating true false true) [encode 8 .gen]))).isSome = true
      ∧ decode 8 (encode 8 .gen) = .ok .gen
      ∧ (next? (step (feed (rotating true false true)
          [encode 8 (.cfg (regCfg 0 0 0) (regCfg 2 1 3) (regCfg 2 2 3))]))).map State.cfgCause = some .lenZero := by
  decide

theorem witness_NoObservationWithoutReset :
    (encode 8 .gen).rst = false ∧ (encode 8 .gen).bus0.fits 8 = true ∧ (encode 8 .gen).bus1.fits 8 = true
      ∧ (encode 8 .gen).bus2.fits 8 = true := by
  decide

/-- A run of one reset alone meets them too. -/
theorem witness_RunFromResetIsObserved :
    resetCycle.rst = true ∧ ∀ d ∈ [encode 8 .gen, encode 8 vf1, encode 8 .gen, resetCycle, idleCycle],
      decode 8 d ≠ .error .busWidth := by
  decide

/-- V-F1's `CFG`, then a `GEN` and a reset. -/
theorem witness_KeystreamIsProducedAfterLastCfg :
    ∃ e a b, trace 3 (feed (State.resetOf 8 []) [encode 8 vf1, encode 8 .gen, resetCycle]) = .next ([] ++ e :: [a, b])
      ∧ cfgSucceeded e = true ∧ cfgSucceeded a = false ∧ cfgSucceeded b = false :=
  ⟨_, _, _, rfl, rfl, rfl, rfl⟩

theorem witness_KeystreamProducesNBits : smallest.wasReset = true ∧ smallest.ready = true := by decide

/-- One cycle of each kind, with a `GEN` between them. -/
theorem witness_InertCyclesLeaveTheKeystream :
    (rotating true false true).wasReset = true ∧ (rotating true false true).ready = true
      ∧ decode 8 idleCycle = .error .idleCycle ∧ decode 8 (encode 8 .nop) = .ok .nop
      ∧ decode 8 (encode 8 .reserved) = .ok .reserved ∧ decode 8 (encode 8 .gen) = .ok .gen
      ∧ decode 8 (encode 8 (.cfg (regCfg 2 2 3) (regCfg 9 0 0) (regCfg 2 2 3)))
          = .ok (.cfg (regCfg 2 2 3) (regCfg 9 0 0) (regCfg 2 2 3))
      ∧ checkCfg 8 (regCfg 2 2 3) (regCfg 9 0 0) (regCfg 2 2 3) ≠ none := by
  decide

/-- Two different states, an accepted `CFG`, and cycles that can be driven, a reset and a second `CFG` among them. -/
theorem witness_BitsDependOnlyOnConfiguration :
    (rotating true false true).lmax = State.reset.lmax ∧ rotating true false true ≠ State.reset
      ∧ (rotating true false true).wasReset = true ∧ State.reset.wasReset = true ∧ vf1.wellFormed 8 = true
      ∧ checkCfg 8 (regCfg 2 0x02 0x03) (regCfg 2 0x01 0x03) (regCfg 2 0x02 0x03) = none
      ∧ ∀ c ∈ [encode 8 .gen, idleCycle, encode 8 vf1, encode 8 .gen, resetCycle],
          decode 8 c ≠ .error .busWidth := by
  decide

/-- Reset, V-F1's `CFG`, a `GEN`. -/
theorem witness_RunThatEndsCleanWasClean :
    resetCycle.rst = true ∧ (∀ d ∈ [encode 8 vf1, encode 8 .gen], d.rst = false)
      ∧ EndsClean (rotating true true true) [resetCycle, encode 8 vf1, encode 8 .gen]
      ∧ ∃ l, trace 3 ((rotating true true true).powerUp [resetCycle, encode 8 vf1, encode 8 .gen]) = .next l :=
  ⟨by decide, by decide, ⟨_, rfl, rfl⟩, _, rfl⟩

/-- Fills of length 1 and `LMAX`, and a list with repeats. -/
theorem witness_ListConfigurationIsLoaded :
    ∀ r ∈ ([{ fill := [true], taps := [1, 1, 1] }, { fill := bus8 0xA5, taps := [8, 1] }, { fill := [false], taps := [] }]
        : List ListReg),
      1 ≤ r.fill.length ∧ r.fill.length ≤ 8 ∧ ∀ p ∈ r.taps, 1 ≤ p ∧ p ≤ r.fill.length := by
  decide

/-- A tap just above the length of register 2, which the mask can hold. -/
theorem witness_HostReportsTheBlocksError :
    (∀ r ∈ ([{ fill := [true], taps := [1] }, { fill := [true, true], taps := [] }, { fill := [false], taps := [2] }]
        : List ListReg), r.taps.Nodup ∧ ∀ p ∈ r.taps, 1 ≤ p ∧ p ≤ 8)
      ∧ convertList 8 { fill := [true], taps := [1] } { fill := [true, true], taps := [] }
          { fill := [false], taps := [2] } = .error (.tapRange .r2) := by
  decide

end Sys2Proof.Tests
end

section
/-! Proofs of the statements of 00_scope.md: the width of the length bus (R13), the frame of one step (R12, R77, R144),
and the invariant at reset (R44). -/

namespace Sys2Proof

/-! The width of the length bus. -/

@[simp] theorem bitLength_zero (fuel : Nat) : bitLength fuel 0 = 0 := by
  cases fuel <;> rfl

theorem bitLength_succ_of_ne_zero {n : Nat} (fuel : Nat) (h : n ≠ 0) :
    bitLength (fuel + 1) n = bitLength fuel (n / 2) + 1 :=
  if_neg h

/-- With fuel enough, `bitLength` counts the wires a value needs: halving the value is halving the power of two. -/
theorem bitLength_le_iff_lt_two_pow {fuel n : Nat} (h : n ≤ fuel) (w : Nat) :
    bitLength fuel n ≤ w ↔ n < 2 ^ w := by
  induction fuel generalizing n w with
  | zero => simp [Nat.le_zero.mp h]
  | succ fuel ih =>
    rcases Nat.eq_zero_or_pos n with rfl | hn
    · simp
    · rw [bitLength_succ_of_ne_zero fuel hn.ne']
      cases w with
      | zero => simp [hn.ne']
      | succ w =>
        have hhalf : bitLength fuel (n / 2) ≤ w ↔ n / 2 < 2 ^ w := ih (by omega) w
        rw [Nat.add_le_add_iff_right, hhalf, Nat.pow_succ, Nat.div_lt_iff_lt_mul two_pos]

/-- R13: the widths that hold every value `0..LMAX` are those from `W_LEN` on. -/
theorem lenWidth_le_iff_lt_two_pow (lmax w : Nat) : lenWidth lmax ≤ w ↔ lmax < 2 ^ w :=
  bitLength_le_iff_lt_two_pow le_rfl w

/-- R13: `W_LEN` is the rounded-up logarithm, since both bound the same widths from below. -/
theorem lenWidth_eq_clog (lmax : Nat) : lenWidth lmax = Nat.clog 2 (lmax + 1) :=
  eq_of_forall_ge_iff fun w => by
    rw [lenWidth_le_iff_lt_two_pow, Nat.clog_le_iff_le_pow one_lt_two, Nat.succ_le_iff]

/-- Settles O12, from the characterisation of `bitLength` by induction on its fuel. -/
theorem lenWidthIsSmallest : Obligations.LenWidthIsSmallest :=
  ⟨fun lmax => ⟨fun w => (lenWidth_le_iff_lt_two_pow lmax w).symm, lenWidth_eq_clog lmax⟩, by decide⟩

end Sys2Proof

namespace Sys2Proof.Machine

/-! What a command leaves unchanged of the fields that are the model's own. -/

/-- No command writes `LMAX`, the mark of the first reset, or the cycles still pending. -/
theorem exec_keeps_host_fields {i : Instr} {s t : State} (h : exec i s = .next t) :
    t.lmax = s.lmax ∧ t.wasReset = s.wasReset ∧ t.pending = s.pending := by
  obtain ⟨-, rfl⟩ | ⟨-, -, rfl⟩ | ⟨-, -, rfl⟩ | ⟨_, _, _, -, -, rfl⟩ | ⟨_, _, _, _, -, -, rfl⟩ | ⟨-, rfl⟩ :=
    exec_cases h <;> simp

/-- Settles O7, by the three kinds of cycle a step can take. -/
theorem stepTakesOneCycleAndKeepsLmax : Obligations.StepTakesOneCycleAndKeepsLmax := by
  intro s t h
  obtain ⟨c, rest, hp, ⟨-, rfl⟩ | ⟨-, hw, rfl⟩ | ⟨i, -, hw, hexec⟩⟩ := step_cases h
  · exact ⟨rfl, rfl, c, hp⟩
  · exact ⟨rfl, hw, c, hp⟩
  · obtain ⟨hlmax, hreset, hpending⟩ := exec_keeps_host_fields hexec
    exact ⟨hlmax, hreset.trans hw, c, hpending ▸ hp⟩

/-! The invariant at reset. -/

/-- The slice of a bus of zeros is 0, whatever its lower end. -/
@[simp] theorem sliceNonzero_zeros (w lo : Nat) : sliceNonzero (zeros w) lo = false :=
  (sliceNonzero_eq_false_iff _ _).mpr fun k _ => bitAt_zeros w k

/-- R25, R28, R29: an empty register is well formed at every `LMAX`. -/
theorem empty_wf (lmax : Nat) : (ShiftReg.empty lmax).wf lmax :=
  ⟨rfl, Nat.zero_le lmax, zeros_length lmax, sliceNonzero_zeros lmax 0⟩

/-- The reset state meets the invariant: its registers are empty, and `READY` and the outputs are 0 (R44). -/
theorem resetOf_inv {lmax : Nat} (pending : List Cycle) (h : 1 ≤ lmax) : (State.resetOf lmax pending).Inv := by
  have hwf := empty_wf lmax
  have hlen : (ShiftReg.empty lmax).len = 0 ↔ false = false := by simp [ShiftReg.empty]
  have hreg : 0b00#2 ≠ 0b11#2 := by decide
  exact ⟨h, rfl, hwf, hwf, hwf, hlen, hlen, hlen, hreg, fun _ => rfl, fun _ => ⟨rfl, rfl⟩⟩

/-- Settles O32; `State.reset` is the reset state at `Config.lmax`. -/
theorem resetMeetsInvariant : Obligations.ResetMeetsInvariant :=
  ⟨fun _ pending h => resetOf_inv pending h, resetOf_inv [] (by decide)⟩

end Sys2Proof.Machine
end

section
/-! Proofs of the statements of 10_state.md: what a reset gives and what is unspecified before it (R44, R45), the fields of
`STATUS` (R32), the invariant (R25 to R38), and which commands write the status bits and the registers. -/

namespace Sys2Proof

/-! The feedback over zeros. -/

/-- The parity of a collection of zeros is 0 (R19). -/
theorem parity_map_eq_false {α : Type} {l : List α} {f : α → Bool} (h : ∀ a ∈ l, f a = false) :
    parity (l.map f) = false := by
  induction l with
  | nil => rfl
  | cons a l ih =>
    obtain ⟨ha, hl⟩ := List.forall_mem_cons.mp h
    simp [ha, ih hl]

end Sys2Proof

namespace Sys2Proof.Machine

/-! The cycle kinds the decoder tells apart. -/

/-- R138: a cycle is a reset exactly when its `rst` is 1; no command decodes to one. -/
theorem decode_eq_resetCycle_iff (lmax : Nat) (c : Cycle) :
    decode lmax c = .error .resetCycle ↔ c.rst = true := by
  unfold decode decodeCommand
  split_ifs <;> simp_all

/-- R63: a cycle that can be driven and is no reset carries a command or is idle. -/
theorem decode_of_fits {lmax : Nat} {c : Cycle} (hr : c.rst = false) (h0 : c.bus0.fits lmax = true)
    (h1 : c.bus1.fits lmax = true) (h2 : c.bus2.fits lmax = true) :
    decode lmax c = .error .idleCycle ∨ ∃ i, decode lmax c = .ok i := by
  unfold decode decodeCommand
  split_ifs <;> simp_all

/-- What a step can be whose cycle is no reset. -/
theorem step_cases_of_not_reset {s t : State} {c : Cycle} {rest : List Cycle} (hp : s.pending = c :: rest)
    (hs : step s = .next t) (hr : c.rst = false) :
    (decode s.lmax c = .error .idleCycle ∧ t = State.clearBitValid { s with pending := rest })
      ∨ ∃ i, decode s.lmax c = .ok i ∧ exec i { s with pending := rest } = .next t := by
  obtain ⟨c', rest', hp', hcases⟩ := step_cases hs
  obtain ⟨rfl, rfl⟩ := List.cons.inj (hp.symm.trans hp')
  obtain ⟨hd, -⟩ | ⟨hd, -, ht⟩ | ⟨i, hd, -, hexec⟩ := hcases
  · simp [(decode_eq_resetCycle_iff _ _).mp hd] at hr
  · exact .inl ⟨hd, ht⟩
  · exact .inr ⟨i, hd, hexec⟩

/-! Reset. -/

/-- R78: an empty register reads 0 on every wire of its port. -/
theorem contentPort_empty (lmax : Nat) : contentPort lmax (ShiftReg.empty lmax) = zeros lmax := by
  simp [contentPort, ShiftReg.empty, zeros, List.map_const']

/-- Settles O1: the step at a reset cycle answers `State.resetOf`, whose ports show empty registers. -/
theorem resetCycleClearsEveryElement : Obligations.ResetCycleClearsEveryElement := by
  intro s c rest hp hr
  have hport := contentPort_empty s.lmax
  have hreg (i : RegIdx) : (State.resetOf s.lmax rest).reg i = ShiftReg.empty s.lmax := by cases i <;> rfl
  have hstatus : (State.resetOf s.lmax rest).status = 0x00#8 := by simp [State.status, State.resetOf, causeCode]
  refine ⟨_, _, step_reset hp hr, rfl, fun i => ?_, rfl, rfl, rfl, rfl, rfl, rfl, rfl, hstatus, hport, hport, hport,
    rfl, rfl, rfl⟩
  rw [hreg]
  exact ⟨rfl, rfl, rfl⟩

/-! Before the first reset. -/

/-- R45: before the first reset a cycle that can be driven and is no reset stops the machine. -/
theorem step_before_reset {s : State} {c : Cycle} {rest : List Cycle} (hw : s.wasReset = false)
    (hp : s.pending = c :: rest) (hr : c.rst = false) (h0 : c.bus0.fits s.lmax = true)
    (h1 : c.bus1.fits s.lmax = true) (h2 : c.bus2.fits s.lmax = true) : step s = .fault .beforeFirstReset := by
  obtain hd | ⟨i, hd⟩ := decode_of_fits hr h0 h1 h2 <;> simp [step, State.takeCycle, hp, hd, hw]

/-- Settles O2: the ports ask for the mark of the first reset, and so does every step whose cycle is no reset. -/
theorem nothingBeforeFirstReset : Obligations.NothingBeforeFirstReset :=
  fun _ _ _ hw => ⟨by simp [State.ports, hw], step_before_reset hw⟩

/-- A trace whose first cycle stops the machine with a fault is that fault. -/
theorem trace_of_fault {fuel : Nat} {s : State} {c : Cycle} {rest : List Cycle} {r : Fault}
    (hp : s.pending = c :: rest) (hs : step s = .fault r) : trace (fuel + 1) s = .fault r := by
  simp [trace, State.takeCycle, hp, hs]

/-- R143: without a cycle nothing has reset the block by the end. -/
theorem observeRun_nil (s : State) : observeRun s [] = .fault .beforeFirstReset := rfl

/-- Settles O45: a run without a cycle leaves the block not reset, and one with another first cycle faults at it. -/
theorem noObservationWithoutReset : Obligations.NoObservationWithoutReset := by
  intro s
  refine ⟨observeRun_nil s, ?_, ?_, fun c rest hr h0 h1 h2 => ?_⟩
  · rintro ⟨o, ho, -⟩
    simp [observeRun_nil] at ho
  · rintro ⟨o, l, ho, -⟩
    simp [observeRun_nil] at ho
  · have hs : step (s.powerUp (c :: rest)) = .fault .beforeFirstReset := step_before_reset rfl rfl hr h0 h1 h2
    have ht : trace (s.powerUp (c :: rest)).pending.length (s.powerUp (c :: rest)) = .fault .beforeFirstReset :=
      trace_of_fault rfl hs
    simp [observeRun, State.observe, ht]

/-! What is observed depends on the first step's answer only. -/

/-- Two states with the same cycles, at least one, whose next step answers the same are observed alike: what they hold
themselves is in no entry of the trace. -/
theorem observe_congr {s s' : State} {c : Cycle} {rest : List Cycle} (hp : s.pending = c :: rest)
    (hp' : s'.pending = c :: rest) (hs : step s = step s') : s.observe = s'.observe := by
  have htrace : trace (rest.length + 1) s = trace (rest.length + 1) s' := by
    simp only [trace, State.takeCycle, hp, hp', hs]
    cases step s' <;> rfl
  unfold State.observe
  rw [hp, hp', List.length_cons, ← htrace]
  cases ht : trace (rest.length + 1) s with
  | next l =>
    obtain ⟨t, l', -, -, rfl⟩ := trace_next_inv hp ht
    simp
  | fault r => rfl
  | refused r => rfl

/-- Settles O3: the first step of both runs answers the reset state of the one `LMAX`. -/
theorem powerUpContentsNeverMatter : Obligations.PowerUpContentsNeverMatter := by
  intro s s' c rest hlmax hr
  refine observe_congr (s := s.powerUp (c :: rest)) (s' := s'.powerUp (c :: rest)) rfl rfl ?_
  calc step (s.powerUp (c :: rest))
      = .next (State.resetOf s.lmax rest) := step_reset rfl hr
    _ = .next (State.resetOf s'.lmax rest) := by rw [hlmax]
    _ = step (s'.powerUp (c :: rest)) := (step_reset (s := s'.powerUp (c :: rest)) rfl hr).symm

/-! The fields of `STATUS`. -/

/-- Wire `k` of `STATUS`, looked for in the parts of the word from bit 0 up (R32). -/
theorem status_getLsbD (s : State) (k : Nat) :
    s.status.getLsbD k =
      if k < 1 then (BitVec.ofBool s.ready).getLsbD k
      else if k - 1 < 1 then (BitVec.ofBool s.errNotReady).getLsbD (k - 1)
      else if k - 1 - 1 < 1 then (BitVec.ofBool s.errIllegal).getLsbD (k - 1 - 1)
      else if k - 1 - 1 - 1 < 1 then (0#1).getLsbD (k - 1 - 1 - 1)
      else (s.cfgReg ++ causeCode s.cfgCause).getLsbD (k - 1 - 1 - 1 - 1) := by
  simp only [State.status, BitVec.getLsbD_append]

/-- The upper half of `STATUS` holds `CFG_REG` and `CFG_CAUSE` (R32): a slice of it is a slice of those two. -/
theorem status_extractLsb'_of_ge (s : State) {start : Nat} (len : Nat) (h : 4 ≤ start) :
    s.status.extractLsb' start len = (s.cfgReg ++ causeCode s.cfgCause).extractLsb' (start - 4) len := by
  simp (disch := omega) only [State.status, BitVec.extractLsb'_append_eq_of_le, Nat.sub_sub]

/-- Settles O30: the single bits wire by wire, the two fields as slices of the upper half. -/
theorem statusWordLayout : Obligations.StatusWordLayout := by
  intro s
  refine ⟨by rw [status_getLsbD]; simp, by rw [status_getLsbD]; simp, by rw [status_getLsbD]; simp,
    by rw [status_getLsbD]; simp, ?_, ?_⟩
  · calc s.status.extractLsb' 4 2
        = (s.cfgReg ++ causeCode s.cfgCause).extractLsb' 0 2 := status_extractLsb'_of_ge s 2 (by decide)
      _ = causeCode s.cfgCause := BitVec.extractLsb'_append_eq_right
      _ = _ := by cases s.cfgCause <;> rfl
  · calc s.status.extractLsb' 6 2
        = (s.cfgReg ++ causeCode s.cfgCause).extractLsb' 2 2 := status_extractLsb'_of_ge s 2 (by decide)
      _ = s.cfgReg := BitVec.extractLsb'_append_eq_left

/-! A register without taps, and one of zeros. -/

@[simp] theorem clocked_tapPositions (r : ShiftReg) : r.clocked.tapPositions = r.tapPositions := rfl

@[simp] theorem iterate_clocked_len (r : ShiftReg) (k : Nat) : (ShiftReg.clocked^[k] r).len = r.len := by
  induction k generalizing r with
  | zero => rfl
  | succ k ih => rw [Function.iterate_succ_apply, ih, clocked_len]

/-- R88: without taps the feedback is the parity of nothing. -/
theorem feedback_of_no_taps {r : ShiftReg} (h : r.tapPositions = []) : r.feedback = false := by
  simp [ShiftReg.feedback, ShiftReg.tapIndices, h]

/-- R88: without taps each of the first `L` clocks drops the front bit and appends a 0. -/
theorem iterate_clocked_content_of_no_taps {r : ShiftReg} {k : Nat} (h : r.tapPositions = [])
    (hk : k ≤ r.content.length) : (ShiftReg.clocked^[k] r).content = r.content.drop k ++ zeros k := by
  induction k generalizing r with
  | zero => simp [zeros]
  | succ k ih =>
    have hlen : r.clocked.content.length = r.content.length := clocked_content_length (by omega)
    have hdrop : r.clocked.content.drop k = r.content.drop (k + 1) ++ [false] := by
      have hk' : k ≤ (r.content.drop 1).length := by
        rw [List.length_drop]
        omega
      rw [ShiftReg.clocked, feedback_of_no_taps h, List.drop_append_of_le_length hk', List.drop_drop, Nat.add_comm]
    rw [Function.iterate_succ_apply, ih (r := r.clocked) h (by omega), hdrop]
    simp [zeros, List.replicate_succ]

/-- R27, R88: an all-zero register stays as it is under any taps. -/
theorem clocked_of_zeros {r : ShiftReg} (hz : r.content = zeros r.len) (hl : 1 ≤ r.len) : r.clocked = r := by
  have hfb : r.feedback = false := parity_map_eq_false fun j _ => by rw [hz, bitAt_zeros]
  have hshift : (zeros r.len).drop 1 ++ [false] = zeros r.len := by
    obtain ⟨n, hn⟩ := Nat.exists_eq_add_of_le' hl
    rw [hn, zeros, List.drop_replicate, Nat.add_sub_cancel, ← List.replicate_succ']
  have hcontent : r.clocked.content = r.content := by
    rw [ShiftReg.clocked, hfb, hz, hshift]
  exact congrArg (fun c => { r with content := c }) hcontent

/-- Settles O19: the first `L` clocks shift zeros in from the back, and an all-zero register is a fixed point. -/
theorem noTapsDrainAndZerosStay : Obligations.NoTapsDrainAndZerosStay := by
  intro r n hlen hl
  refine ⟨fun htaps => ⟨feedback_of_no_taps htaps, ?_⟩, fun hz => ?_⟩
  · have hdrained : (ShiftReg.clocked^[r.len] r).content = zeros (ShiftReg.clocked^[r.len] r).len := by
      rw [iterate_clocked_content_of_no_taps htaps hlen.ge, ← hlen, List.drop_length, List.nil_append, hlen,
        iterate_clocked_len]
    rw [Nat.add_comm, Function.iterate_add_apply,
      Function.iterate_fixed (clocked_of_zeros hdrained (by rwa [iterate_clocked_len])), hdrained,
      iterate_clocked_len]
  · rw [Function.iterate_fixed (clocked_of_zeros hz hl)]
    exact ⟨hz, by rw [ShiftReg.front, hz, bitAt_zeros]⟩

/-! What the operations leave of the registers and of the status bits. -/

@[simp] theorem clearBitValid_reg (s : State) (i : RegIdx) : s.clearBitValid.reg i = s.reg i := by cases i <;> rfl

@[simp] theorem raise_reg (s : State) (e : BlockError) (i : RegIdx) : (s.raise e).reg i = s.reg i := by
  cases i <;> simp

@[simp] theorem withPending_reg (s : State) (rest : List Cycle) (i : RegIdx) :
    State.reg { s with pending := rest } i = s.reg i := by cases i <;> rfl

/-- R36: no register has index 3. -/
theorem regCode_ne_three (i : RegIdx) : regCode i ≠ 0b11#2 := by cases i <;> decide

/-- R117: the error of a rejected `CFG` writes its cause, which is not `NONE`, and neither sticky bit. -/
theorem raise_of_checkCfg {lmax : Nat} {c0 c1 c2 : RegConfig} {e : BlockError}
    (h : checkCfg lmax c0 c1 c2 = some e) (s : State) :
    (s.raise e).cfgCause ≠ .none ∧ (s.raise e).errNotReady = s.errNotReady
      ∧ (s.raise e).errIllegal = s.errIllegal := by
  obtain ⟨i, rfl | rfl | rfl⟩ := checkCfg_cases h <;> simp

/-- A `GEN` clocks each register once, and one of them a second time (R106). -/
theorem generate_reg (s : State) (i : RegIdx) :
    s.generate.reg i = (s.reg i).clocked ∨ s.generate.reg i = (s.reg i).clocked.clocked := by
  rw [generate_eq]
  obtain ⟨-, ho⟩ | ⟨-, -, ho⟩ | ⟨-, -, ho⟩ := combine_cases s.decider.front s.first.front s.second.front <;> rw [ho]
  · cases i <;> exact .inl rfl
  · cases i
    exacts [.inl rfl, .inl rfl, .inr rfl]
  · cases i
    exacts [.inl rfl, .inr rfl, .inl rfl]

/-- R25: a `GEN` keeps the number of bits, the length and the taps of a register that holds a bit. -/
theorem generate_reg_frame (s : State) (i : RegIdx) (h : 1 ≤ (s.reg i).content.length) :
    (s.generate.reg i).content.length = (s.reg i).content.length
      ∧ (s.generate.reg i).len = (s.reg i).len ∧ (s.generate.reg i).tap = (s.reg i).tap := by
  have hone := clocked_content_length h
  obtain hg | hg := generate_reg s i
  · simp [hg, hone]
  · have htwo := clocked_content_length (hone.symm ▸ h)
    simp [hg, htwo, hone]

/-! The invariant, register by register. -/

/-- `State.Inv` with its clauses on the three registers said once, of register `i`. -/
theorem inv_iff (s : State) :
    s.Inv ↔ 1 ≤ s.lmax ∧ s.wasReset = true
      ∧ (∀ i, (s.reg i).wf s.lmax ∧ ((s.reg i).len = 0 ↔ s.ready = false))
      ∧ s.cfgReg ≠ 0b11#2 ∧ (s.cfgCause = .none → s.cfgReg = 0b00#2)
      ∧ (s.ready = false → s.bitOut = false ∧ s.bitValid = false) := by
  constructor
  · rintro ⟨hl, hw, h0, h1, h2, e0, e1, e2, hrest⟩
    refine ⟨hl, hw, fun i => ?_, hrest⟩
    cases i
    exacts [⟨h0, e0⟩, ⟨h1, e1⟩, ⟨h2, e2⟩]
  · rintro ⟨hl, hw, hregs, hrest⟩
    obtain ⟨⟨h0, e0⟩, ⟨h1, e1⟩, ⟨h2, e2⟩⟩ := And.intro (hregs .r0) (And.intro (hregs .r1) (hregs .r2))
    exact ⟨hl, hw, h0, h1, h2, e0, e1, e2, hrest⟩

/-- R25, R28: the registers of a block that is `READY` hold at least one bit. -/
theorem content_length_pos_of_ready {s : State} (hs : s.Inv) (hr : s.ready = true) (i : RegIdx) :
    1 ≤ (s.reg i).content.length := by
  obtain ⟨-, -, hregs, -⟩ := (inv_iff s).mp hs
  obtain ⟨⟨hlen, -⟩, hzero⟩ := hregs i
  have : (s.reg i).len ≠ 0 := fun h => by simp [hzero.mp h] at hr
  omega

/-- R92, R94: operands that fit the ports and pass the checks make a well-formed register that is not empty. -/
theorem configuredReg_wf {lmax : Nat} {i : RegIdx} {c : RegConfig} (hw : c.wellFormed lmax = true)
    (hc : checkReg lmax i c = none) : (configuredReg c).wf lmax ∧ (configuredReg c).len ≠ 0 := by
  obtain ⟨hpos, hle, htap⟩ := (checkReg_eq_none_iff lmax i c).mp hc
  simp only [RegConfig.wellFormed, Bool.and_eq_true, beq_iff_eq] at hw
  obtain ⟨⟨-, hfill⟩, htaplen⟩ := hw
  have hcontent : (fillOperand c).length = c.len := by
    rw [fillOperand, List.length_take, hfill, Nat.min_eq_left hle]
  exact ⟨⟨hcontent, hle, htaplen, htap⟩, Nat.pos_iff_ne_zero.mp hpos⟩

theorem clearBitValid_inv {s : State} (hs : s.Inv) : s.clearBitValid.Inv := by
  obtain ⟨hl, hw, hregs, hreg, hcause, hout⟩ := (inv_iff s).mp hs
  refine (inv_iff _).mpr ⟨hl, hw, fun i => ?_, hreg, hcause, fun hr => ⟨(hout hr).1, rfl⟩⟩
  simpa using hregs i

/-- R36, R117: an error of `CFG` writes a cause that is not `NONE` and the index of a register; the other two write
neither. -/
theorem raise_inv {s : State} (hs : s.Inv) (e : BlockError) : (s.raise e).Inv := by
  obtain ⟨hl, hw, hregs, hreg, hcause, hout⟩ := (inv_iff s).mp hs
  refine (inv_iff _).mpr ⟨by simpa using hl, by simpa using hw, by simpa using hregs, ?_, ?_, by simpa using hout⟩
  · cases e with
    | lenZero i | lenTooLong i | tapRange i => exact regCode_ne_three i
    | notReady | illegal => exact hreg
  · cases e with
    | lenZero | lenTooLong | tapRange => simp
    | notReady | illegal => exact hcause

/-- R94: an accepted configuration makes the block `READY` with three registers that are not empty. -/
theorem commit_inv {s : State} {c0 c1 c2 : RegConfig} (hs : s.Inv)
    (hw : (Instr.cfg c0 c1 c2).wellFormed s.lmax = true) (hc : checkCfg s.lmax c0 c1 c2 = none) :
    (s.commit c0 c1 c2).Inv := by
  obtain ⟨hl, hwas, -⟩ := (inv_iff s).mp hs
  simp only [Instr.wellFormed, Bool.and_eq_true] at hw
  obtain ⟨⟨hw0, hw1⟩, hw2⟩ := hw
  obtain ⟨hc0, hc1, hc2⟩ := (checkCfg_eq_none_iff _ _ _ _).mp hc
  obtain ⟨wf0, ne0⟩ := configuredReg_wf hw0 hc0
  obtain ⟨wf1, ne1⟩ := configuredReg_wf hw1 hc1
  obtain ⟨wf2, ne2⟩ := configuredReg_wf hw2 hc2
  refine (inv_iff _).mpr ⟨hl, hwas, fun i => ?_, by simp, fun _ => rfl, by simp⟩
  cases i
  exacts [⟨wf0, by simpa using ne0⟩, ⟨wf1, by simpa using ne1⟩, ⟨wf2, by simpa using ne2⟩]

/-- R25, R28, R29: what the invariant says of a register speaks of what a `GEN` keeps of it. -/
theorem generate_inv {s : State} (hs : s.Inv) (hr : s.ready = true) : s.generate.Inv := by
  obtain ⟨hl, hw, hregs, hreg, hcause, -⟩ := (inv_iff s).mp hs
  refine (inv_iff _).mpr ⟨by simpa using hl, by simpa using hw, fun i => ?_, by simpa using hreg,
    by simpa using hcause, by simp [hr]⟩
  obtain ⟨hcontent, hlen, htap⟩ := generate_reg_frame s i (content_length_pos_of_ready hs hr i)
  simpa [ShiftReg.wf, hcontent, hlen, htap] using hregs i

/-- Every command that fits the ports keeps the invariant. -/
theorem exec_inv {i : Instr} {s t : State} (hw : i.wellFormed s.lmax = true) (hs : s.Inv)
    (h : exec i s = .next t) : t.Inv := by
  obtain ⟨-, rfl⟩ | ⟨-, hr, rfl⟩ | ⟨-, -, rfl⟩ | ⟨c0, c1, c2, rfl, hc, rfl⟩ | ⟨_, _, _, e, -, -, rfl⟩ | ⟨-, rfl⟩ :=
    exec_cases h
  · exact clearBitValid_inv hs
  · exact generate_inv hs hr
  · exact clearBitValid_inv (raise_inv hs .notReady)
  · exact clearBitValid_inv (commit_inv hs hw hc)
  · exact clearBitValid_inv (raise_inv hs e)
  · exact clearBitValid_inv (raise_inv hs .illegal)

/-- Settles O33, by the three kinds of cycle a step can take: a reset, an idle cycle, a command. The invariant does not
speak of the cycles still pending. -/
theorem stepKeepsInvariant : Obligations.StepKeepsInvariant := by
  intro s t hs h
  obtain ⟨c, rest, -, ⟨-, rfl⟩ | ⟨-, -, rfl⟩ | ⟨i, hd, -, hexec⟩⟩ := step_cases h
  · exact resetOf_inv rest hs.1
  · exact clearBitValid_inv (s := { s with pending := rest }) hs
  · exact exec_inv (s := { s with pending := rest }) (decode_wellFormed hd) hs hexec

/-! Which commands write the status bits and the registers. -/

/-- R33, R34: what a command does to the two sticky bits. -/
theorem exec_sticky {i : Instr} {s t : State} (h : exec i s = .next t) :
    (t.errNotReady = true ↔ s.errNotReady = true ∨ (i = .gen ∧ s.ready = false))
      ∧ (t.errIllegal = true ↔ s.errIllegal = true ∨ i = .reserved) := by
  obtain ⟨rfl, rfl⟩ | ⟨rfl, hr, rfl⟩ | ⟨rfl, hr, rfl⟩ | ⟨_, _, _, rfl, -, rfl⟩ | ⟨_, _, _, _, rfl, hc, rfl⟩ |
    ⟨rfl, rfl⟩ := exec_cases h
  · simp
  · simp [hr]
  · simp [hr]
  · simp
  · obtain ⟨-, hnotReady, hillegal⟩ := raise_of_checkCfg hc s
    simp [hnotReady, hillegal]
  · simp

/-- Settles O35: a reset clears both bits, an idle cycle writes neither, and `exec_sticky` says what a command does. -/
theorem stickyErrorsSetAndKept : Obligations.StickyErrorsSetAndKept := by
  intro s t c rest hp hs
  refine ⟨fun hr => ?_, fun hr => ?_⟩
  · obtain ⟨hd, rfl⟩ | ⟨i, hd, hexec⟩ := step_cases_of_not_reset hp hs hr
    · simp [hd]
    · simpa [hd] using exec_sticky hexec
  · cases (step_reset hp hr).symm.trans hs
    exact ⟨rfl, rfl⟩

/-- R31, R35, R36: what a command does to `READY`, and that only `CFG` writes its result. -/
theorem exec_ready_and_cfgResult {i : Instr} {s t : State} (h : exec i s = .next t) :
    (t.ready = true ↔ s.ready = true ∨ ((∃ c0 c1 c2, i = .cfg c0 c1 c2) ∧ t.cfgCause = .none))
      ∧ ((∀ c0 c1 c2, i ≠ .cfg c0 c1 c2) → t.cfgCause = s.cfgCause ∧ t.cfgReg = s.cfgReg) := by
  obtain ⟨rfl, rfl⟩ | ⟨rfl, -, rfl⟩ | ⟨rfl, -, rfl⟩ | ⟨_, _, _, rfl, -, rfl⟩ | ⟨_, _, _, _, rfl, hc, rfl⟩ |
    ⟨rfl, rfl⟩ := exec_cases h
  · simp
  · simp
  · simp
  · simp
  · obtain ⟨hcause, -⟩ := raise_of_checkCfg hc s
    simp [hcause]
  · simp

/-- Settles O36: an idle cycle writes neither, and `exec_ready_and_cfgResult` says what a command does. -/
theorem readyAndCfgResultOnlyByCfg : Obligations.ReadyAndCfgResultOnlyByCfg := by
  intro s t c rest hp hs hr
  obtain ⟨hd, rfl⟩ | ⟨i, hd, hexec⟩ := step_cases_of_not_reset hp hs hr
  · simp [hd]
  · simpa [hd] using exec_ready_and_cfgResult hexec

/-- R25, R26: every command but a successful `CFG` and a producing `GEN` leaves each register as it is. -/
theorem exec_reg_of_not_cfg_not_gen {i : Instr} {s t : State} (h : exec i s = .next t)
    (hcfg : ¬((∃ c0 c1 c2, i = .cfg c0 c1 c2) ∧ t.cfgCause = .none)) (hgen : ¬(i = .gen ∧ s.ready = true))
    (k : RegIdx) : t.reg k = s.reg k := by
  obtain ⟨-, rfl⟩ | ⟨hi, hr, -⟩ | ⟨-, -, rfl⟩ | ⟨c0, c1, c2, hi, -, rfl⟩ | ⟨_, _, _, _, -, -, rfl⟩ | ⟨-, rfl⟩ :=
    exec_cases h
  · simp
  · exact absurd ⟨hi, hr⟩ hgen
  · simp
  · exact absurd ⟨⟨c0, c1, c2, hi⟩, rfl⟩ hcfg
  · simp
  · simp

/-- R25, R26: every command but a successful `CFG` keeps the lengths and the taps. -/
theorem exec_reg_frame {i : Instr} {s t : State} (hs : s.Inv) (h : exec i s = .next t)
    (hcfg : ¬((∃ c0 c1 c2, i = .cfg c0 c1 c2) ∧ t.cfgCause = .none)) (k : RegIdx) :
    (t.reg k).content.length = (s.reg k).content.length
      ∧ (t.reg k).len = (s.reg k).len ∧ (t.reg k).tap = (s.reg k).tap := by
  by_cases hgen : i = .gen ∧ s.ready = true
  · obtain ⟨rfl, hr⟩ := hgen
    obtain rfl : s.generate = t := by simpa [exec, execGen, hr] using h
    exact generate_reg_frame s k (content_length_pos_of_ready hs hr k)
  · simp [exec_reg_of_not_cfg_not_gen h hcfg hgen k]

/-- Settles O37: an idle cycle writes no register; a command keeps what `exec_reg_frame` and
`exec_reg_of_not_cfg_not_gen` say. -/
theorem registersOnlyByCfgAndGen : Obligations.RegistersOnlyByCfgAndGen := by
  intro s t c rest hs hp hstep hr hcfg k
  obtain ⟨hd, rfl⟩ | ⟨i, hd, hexec⟩ := step_cases_of_not_reset hp hstep hr
  · simp
  · simp only [hd, Except.ok.injEq] at hcfg ⊢
    obtain ⟨hcontent, hlen, htap⟩ := exec_reg_frame (s := { s with pending := rest }) hs hexec hcfg k
    simp only [withPending_reg] at hcontent hlen htap
    exact ⟨hcontent, hlen, htap, fun hgen => by simpa using exec_reg_of_not_cfg_not_gen hexec hcfg hgen k⟩

end Sys2Proof.Machine
end

section
/-! Proofs of the statements of 20_memory.md: one step is one command (R57, R64, R144), a `CFG` given twice (R55, R98), and
the keystream after the last successful `CFG` (R49). -/

namespace Sys2Proof.Machine

/-! One step is one command. -/

/-- Settles O5, from `decode_wellFormed` and `step_command`. -/
theorem stepRunsTheDecodedCommand : Obligations.StepRunsTheDecodedCommand :=
  fun _ _ _ _ hp hw hd => ⟨decode_wellFormed hd, step_command hp hw hd⟩

/-! A `CFG` given twice. -/

/-- R91, R94: a `CFG` whose checks pass. -/
theorem exec_cfg_of_checkCfg_none {s : State} {c0 c1 c2 : RegConfig} (h : checkCfg s.lmax c0 c1 c2 = none) :
    exec (.cfg c0 c1 c2) s = .next (s.commit c0 c1 c2).clearBitValid := by
  simp [exec, execCfg, h]

/-- R91, R95: a `CFG` with a failing check. -/
theorem exec_cfg_of_checkCfg_some {s : State} {c0 c1 c2 : RegConfig} {e : BlockError}
    (h : checkCfg s.lmax c0 c1 c2 = some e) : exec (.cfg c0 c1 c2) s = .next (s.raise e).clearBitValid := by
  simp [exec, execCfg, h]

/-- R119: what an error writes does not depend on what the status fields held. -/
theorem raise_clearBitValid_idempotent (s : State) (e : BlockError) :
    ((s.raise e).clearBitValid.raise e).clearBitValid = (s.raise e).clearBitValid := by
  cases e <;> rfl

/-- R94: what a commit writes depends on the operands only. -/
theorem commit_clearBitValid_idempotent (s : State) (c0 c1 c2 : RegConfig) :
    ((s.commit c0 c1 c2).clearBitValid.commit c0 c1 c2).clearBitValid = (s.commit c0 c1 c2).clearBitValid := rfl

/-- Settles O26: the checks read the operands and `LMAX` alone, so the second `CFG` takes the same branch as the first,
and neither branch has anything more to write. -/
theorem cfgTwiceIsCfgOnce : Obligations.CfgTwiceIsCfgOnce := by
  intro s c0 c1 c2
  cases hc : checkCfg s.lmax c0 c1 c2 with
  | none =>
    refine ⟨_, exec_cfg_of_checkCfg_none hc, ?_⟩
    rw [exec_cfg_of_checkCfg_none (by simpa using hc), commit_clearBitValid_idempotent]
  | some e =>
    refine ⟨_, exec_cfg_of_checkCfg_some hc, ?_⟩
    rw [exec_cfg_of_checkCfg_some (by simpa using hc), raise_clearBitValid_idempotent]

/-! Which cycles produce a bit. -/

/-- R38, R116: of the commands only a `GEN` on a block that is `READY` leaves `BIT_VALID` at 1. -/
theorem exec_bitValid_iff {i : Instr} {s t : State} (h : exec i s = .next t) :
    t.bitValid = true ↔ i = .gen ∧ s.ready = true := by
  obtain ⟨rfl, rfl⟩ | ⟨rfl, hr, rfl⟩ | ⟨rfl, hr, rfl⟩ | ⟨_, _, _, rfl, -, rfl⟩ | ⟨_, _, _, _, rfl, -, rfl⟩ |
    ⟨rfl, rfl⟩ := exec_cases h
  · simp
  · simp [hr]
  · simp [hr]
  · simp
  · simp
  · simp

/-- R116: the cycle after which `BIT_VALID` is 1 carries a `GEN` to a block that is `READY`; a reset and an idle cycle
clear `BIT_VALID`. -/
theorem step_bitValid_iff {s t : State} {c : Cycle} {rest : List Cycle} (hp : s.pending = c :: rest)
    (hs : step s = .next t) : t.bitValid = true ↔ decode s.lmax c = .ok .gen ∧ s.ready = true := by
  obtain ⟨c', rest', hp', hcases⟩ := step_cases hs
  obtain ⟨rfl, rfl⟩ := List.cons.inj (hp.symm.trans hp')
  obtain ⟨hd, rfl⟩ | ⟨hd, -, rfl⟩ | ⟨i, hd, -, hexec⟩ := hcases
  · simp [hd]
  · simp [hd]
  · simpa [hd] using exec_bitValid_iff hexec

@[simp] theorem carriesGen_eq_true_iff (lmax : Nat) (c : Cycle) :
    carriesGen lmax c = true ↔ decode lmax c = .ok .gen := by
  unfold carriesGen
  split <;> simp_all

/-! The entries of a trace. -/

/-- The trace of a state without a cycle is empty. -/
theorem trace_of_pending_nil {s : State} (fuel : Nat) (hp : s.pending = []) : trace fuel s = .next [] := by
  cases fuel <;> simp [trace, State.takeCycle, hp]

/-- Each entry of a trace is one step, of a block with the `LMAX` the trace began with. -/
theorem exists_step_of_mem_trace {fuel : Nat} {s : State} {l : List (Cycle × State)} (h : trace fuel s = .next l)
    {a : Cycle × State} (ha : a ∈ l) :
    ∃ u rest, u.lmax = s.lmax ∧ u.pending = a.1 :: rest ∧ step u = .next a.2 := by
  induction fuel generalizing s l with
  | zero =>
    cases h
    cases ha
  | succ fuel ih =>
    cases hp : s.pending with
    | nil =>
      cases (trace_of_pending_nil _ hp).symm.trans h
      cases ha
    | cons c rest =>
      obtain ⟨t, l', hs, ht, rfl⟩ := trace_next_inv hp h
      rcases List.mem_cons.mp ha with rfl | ha
      · exact ⟨s, rest, rfl, hp, hs⟩
      · obtain ⟨u, rest', hlmax, hu⟩ := ih ht ha
        exact ⟨u, rest', hlmax.trans (stepTakesOneCycleAndKeepsLmax s t hs).1, hu⟩

/-- R116: an entry of a trace that shows a produced bit is a `GEN`. -/
theorem carriesGen_of_mem_trace {fuel : Nat} {s : State} {l : List (Cycle × State)} (h : trace fuel s = .next l)
    {a : Cycle × State} (ha : a ∈ l) (hv : a.2.bitValid = true) : carriesGen s.lmax a.1 = true := by
  obtain ⟨u, rest, hlmax, hp, hs⟩ := exists_step_of_mem_trace h ha
  rw [carriesGen_eq_true_iff, ← hlmax]
  exact ((step_bitValid_iff hp hs).mp hv).1

/-! The bits of a trace. -/

/-- The bits produced are the `BIT_OUT` of the entries after which `BIT_VALID` is 1. -/
theorem producedBits_eq_map_filter (l : List (Cycle × State)) :
    producedBits l = (l.filter fun a => a.2.bitValid).map fun a => a.2.bitOut := by
  induction l with
  | nil => rfl
  | cons a l ih =>
    rw [producedBits_cons, ih]
    cases hv : a.2.bitValid <;> simp [State.producedBit, hv]

/-- Where only `GEN`s show a produced bit, asking each entry for its `GEN` too leaves none out. -/
theorem producedBits_eq_map_filter_carriesGen {lmax : Nat} {l : List (Cycle × State)}
    (h : ∀ a ∈ l, a.2.bitValid = true → carriesGen lmax a.1 = true) :
    producedBits l = (l.filter fun a => carriesGen lmax a.1 && a.2.bitValid).map fun a => a.2.bitOut := by
  rw [producedBits_eq_map_filter]
  congr 1
  refine List.filter_congr fun a ha => ?_
  cases hv : a.2.bitValid with
  | false => simp
  | true => simp [h a ha hv]

/-- R49: without a successful `CFG` the keystream goes on with every bit produced. -/
theorem keystream_append_of_no_cfgSucceeded (l l' : List (Cycle × State)) (h : ∀ a ∈ l', cfgSucceeded a = false) :
    keystream (l ++ l') = keystream l ++ producedBits l' := by
  induction l' generalizing l with
  | nil => simp
  | cons a l' ih =>
    obtain ⟨ha, hl'⟩ := List.forall_mem_cons.mp h
    rw [List.append_cons, ih _ hl', keystream_concat, producedBits_cons]
    simp [ha]

/-- Settles O47: the `CFG` empties the keystream, which from there on takes every bit produced, and only `GEN`s produce
one. -/
theorem keystreamIsProducedAfterLastCfg : Obligations.KeystreamIsProducedAfterLastCfg := by
  intro s n before after e htrace hcfg hnone
  have hgen : ∀ a ∈ after, a.2.bitValid = true → carriesGen s.lmax a.1 = true := fun a ha =>
    carriesGen_of_mem_trace htrace (List.mem_append_right _ (List.mem_cons_of_mem _ ha))
  calc keystream (before ++ e :: after)
      = keystream ((before ++ [e]) ++ after) := by rw [List.append_cons]
    _ = keystream (before ++ [e]) ++ producedBits after := keystream_append_of_no_cfgSucceeded _ _ hnone
    _ = producedBits after := by rw [keystream_concat, if_pos hcfg, List.nil_append]
    _ = _ := producedBits_eq_map_filter_carriesGen hgen

end Sys2Proof.Machine
end

section
/-! Proofs of the statements of 30_encoding.md: the decoder and the encoder (R64 to R70), what a `CFG` reads of its operands
(R69, R94), the ports (R78 to R80), the cycles of `KEYSTREAM` (R76), and the list form of a configuration (R71, R87). -/

namespace Sys2Proof

/-! Buses of one width. -/

/-- Two buses of one width that agree on their first wires begin with the same slice. -/
theorem take_eq_take_of_bitAt {a b : Bits} {n : Nat} (hlen : a.length = b.length)
    (h : ∀ j, j < n → bitAt a j = bitAt b j) : a.take n = b.take n := by
  refine List.ext_getElem (by simp [hlen]) fun j ha hb => ?_
  rw [List.length_take, lt_min_iff] at ha hb
  rw [List.getElem_take, List.getElem_take, ← bitAt_of_lt ha.2, ← bitAt_of_lt hb.2]
  exact h j ha.1

/-- Driving a bus of the right width wire by wire gives that bus. -/
theorem map_range_bitAt {b : Bits} {n : Nat} (h : b.length = n) : (List.range n).map (fun j => bitAt b j) = b := by
  refine List.ext_getElem (by simp [h]) fun j _ hj => ?_
  rw [List.getElem_map, List.getElem_range, bitAt_of_lt hj]

/-- The slice of a bus of `n` wires is 0 exactly when each of the wires it has is. -/
theorem sliceNonzero_eq_false_iff_of_length {b : Bits} {n : Nat} (hb : b.length = n) (lo : Nat) :
    sliceNonzero b lo = false ↔ ∀ k, lo ≤ k → k < n → bitAt b k = false := by
  rw [sliceNonzero_eq_false_iff]
  refine ⟨fun h k hlo _ => h k hlo, fun h k hlo => ?_⟩
  by_cases hk : k < n
  · exact h k hlo hk
  · exact bitAt_of_ge (by omega)

/-! The parity of a collection with repeats. -/

/-- The parity of a selection is the parity of the whole, masked. -/
theorem parity_map_filter {α : Type} (q f : α → Bool) (l : List α) :
    parity ((l.filter q).map f) = parity (l.map fun a => q a && f a) := by
  induction l with
  | nil => rfl
  | cons a l ih => cases hq : q a <;> simp [hq, ih]

/-- R19: the parity of a bitwise XOR is the XOR of the parities. -/
theorem parity_map_xor {α : Type} (f g : α → Bool) (l : List α) :
    parity (l.map fun a => xor (f a) (g a)) = xor (parity (l.map f)) (parity (l.map g)) := by
  induction l with
  | nil => rfl
  | cons a l ih => simp only [List.map_cons, parity_cons, ih, Bool.xor_assoc, Bool.xor_left_comm]

/-- Of a collection without repeats, masked to one of its members, the bit of that member is left. -/
theorem parity_map_single {α : Type} [DecidableEq α] {l : List α} {p : α} (f : α → Bool) (hl : l.Nodup) (hp : p ∈ l) :
    parity (l.map fun a => decide (a = p) && f a) = f p := by
  induction l with
  | nil => simp at hp
  | cons a l ih =>
    obtain ⟨ha, hl⟩ := List.nodup_cons.mp hl
    by_cases hap : a = p
    · have hrest : parity (l.map fun b => decide (b = p) && f b) = false :=
        parity_map_eq_false fun b hb => by
          have hne : b ≠ p := fun h => ha (by rwa [hap, ← h])
          simp [hne]
      simp [hap, hrest]
    · have hpl : p ∈ l := (List.mem_cons.mp hp).resolve_left (Ne.symm hap)
      simp [hap, ih hl hpl]

/-- One more occurrence of `p` flips whether `a` occurs an odd number of times exactly where `a` is `p`. -/
theorem count_cons_odd {α : Type} [DecidableEq α] (p a : α) (l : List α) :
    ((p :: l).count a % 2 == 1) = xor (decide (a = p)) (l.count a % 2 == 1) := by
  by_cases h : a = p
  · subst h
    rw [List.count_cons_self]
    rcases Nat.mod_two_eq_zero_or_one (l.count a) with hmod | hmod <;> simp [hmod, Nat.add_mod]
  · rw [List.count_cons_of_ne (Ne.symm h)]
    simp [h]

/-- R71, R87: summing over a list with repeats is summing over those members that occur an odd number of times, since
two occurrences cancel. -/
theorem parity_odd_occurrences {α : Type} [DecidableEq α] {l taps : List α} (f : α → Bool) (hl : l.Nodup)
    (h : ∀ p ∈ taps, p ∈ l) :
    parity ((l.filter fun a => taps.count a % 2 == 1).map f) = parity (taps.map f) := by
  induction taps with
  | nil => simp
  | cons p ps ih =>
    obtain ⟨hp, hps⟩ := List.forall_mem_cons.mp h
    have hmask (a : α) : (((p :: ps).count a % 2 == 1) && f a)
        = xor (decide (a = p) && f a) ((ps.count a % 2 == 1) && f a) := by
      rw [count_cons_odd, Bool.and_xor_distrib_right]
    rw [parity_map_filter, funext hmask, parity_map_xor, parity_map_single f hl hp, ← parity_map_filter, ih hps,
      List.map_cons, parity_cons]

end Sys2Proof

namespace Sys2Proof.Machine

/-! The operands on the wires, and back. -/

/-- R68 to R70: the operands that fit the ports are read back from the wires that carry them. -/
theorem operands_drive {lmax : Nat} {c : RegConfig} (h : c.wellFormed lmax = true) :
    (c.drive lmax).operands = c := by
  simp only [RegConfig.wellFormed, Bool.and_eq_true, decide_eq_true_eq] at h
  obtain ⟨⟨hlen, -⟩, -⟩ := h
  simp only [RegBus.operands, RegConfig.drive, bitsToNat_natToBits hlen]

/-- R68 to R70: wires of the widths of R63 are the only ones that carry their operands. -/
theorem drive_operands {lmax : Nat} {b : RegBus} (h : b.fits lmax = true) : b.operands.drive lmax = b := by
  simp only [RegBus.fits, Bool.and_eq_true, beq_iff_eq] at h
  obtain ⟨⟨hlen, -⟩, -⟩ := h
  simp only [RegConfig.drive, RegBus.operands, ← hlen, natToBits_bitsToNat]

/-! The opcode map. -/

/-- R65: a cycle with `rst = 0` and `cmd_valid = 1` is read by its opcode. -/
theorem decode_of_command {c : Cycle} (lmax : Nat) (hr : c.rst = false) (hv : c.cmdValid = true) :
    decode lmax c = decodeCommand lmax c.cmdOp c.bus0 c.bus1 c.bus2 := by
  simp [decode, hr, hv]

@[simp] theorem decodeCommand_nop (lmax : Nat) (b0 b1 b2 : RegBus) :
    decodeCommand lmax 0b00#2 b0 b1 b2 = .ok .nop := rfl

@[simp] theorem decodeCommand_gen (lmax : Nat) (b0 b1 b2 : RegBus) :
    decodeCommand lmax 0b01#2 b0 b1 b2 = .ok .gen := rfl

@[simp] theorem decodeCommand_reserved (lmax : Nat) (b0 b1 b2 : RegBus) :
    decodeCommand lmax 0b11#2 b0 b1 b2 = .ok .reserved := rfl

theorem decodeCommand_cfg_of_fits {lmax : Nat} {b0 b1 b2 : RegBus} (h0 : b0.fits lmax = true)
    (h1 : b1.fits lmax = true) (h2 : b2.fits lmax = true) :
    decodeCommand lmax 0b10#2 b0 b1 b2 = .ok (.cfg b0.operands b1.operands b2.operands) := by
  simp [decodeCommand, h0, h1, h2]

/-- R64, R66: what the ports carry in a cycle that decodes to a `CFG`. -/
theorem decode_cfg_inv {lmax : Nat} {c : Cycle} {c0 c1 c2 : RegConfig} (h : decode lmax c = .ok (.cfg c0 c1 c2)) :
    c.rst = false ∧ c.cmdValid = true ∧ c.cmdOp = 0b10#2
      ∧ (c.bus0.fits lmax = true ∧ c.bus1.fits lmax = true ∧ c.bus2.fits lmax = true)
      ∧ c0 = c.bus0.operands ∧ c1 = c.bus1.operands ∧ c2 = c.bus2.operands := by
  unfold decode decodeCommand at h
  split_ifs at h with hr hv _ _ hop hfits <;> cases h
  simp only [Bool.and_eq_true] at hfits
  obtain ⟨⟨h0, h1⟩, h2⟩ := hfits
  exact ⟨by simpa using hr, by simpa using hv, hop, ⟨h0, h1, h2⟩, rfl, rfl, rfl⟩

/-- Settles O10: only `CFG` has operands, and each of them is read back from its own bus. -/
theorem decodeInvertsEncode : Obligations.DecodeInvertsEncode := by
  intro lmax i hwf
  cases i with
  | nop | gen | reserved => rfl
  | cfg c0 c1 c2 =>
    obtain ⟨fits0, fits1, fits2⟩ := Laws.EncodeWidth.cfg c0 c1 c2 lmax hwf
    simp only [Instr.wellFormed, Bool.and_eq_true] at hwf
    obtain ⟨⟨h0, h1⟩, h2⟩ := hwf
    calc decode lmax (encode lmax (.cfg c0 c1 c2))
        = .ok (.cfg (c0.drive lmax).operands (c1.drive lmax).operands (c2.drive lmax).operands) :=
          decodeCommand_cfg_of_fits fits0 fits1 fits2
      _ = .ok (.cfg c0 c1 c2) := by rw [operands_drive h0, operands_drive h1, operands_drive h2]

/-- Settles O11: the decoder has looked at every wire of the cycle, and the encoder drives each as it was. -/
theorem encodeInvertsDecodeOfCfg : Obligations.EncodeInvertsDecodeOfCfg := by
  intro lmax c c0 c1 c2 h
  obtain ⟨hr, hv, hop, ⟨fits0, fits1, fits2⟩, rfl, rfl, rfl⟩ := decode_cfg_inv h
  simp only [encode, opcode, drive_operands fits0, drive_operands fits1, drive_operands fits2, ← hr, ← hv, ← hop]

/-- Settles O8. -/
theorem opcodeMapDecodes : Obligations.OpcodeMapDecodes := by
  intro lmax c hr hv
  rw [decode_of_command lmax hr hv]
  refine ⟨fun hop => ?_, fun hop => ?_, fun hop => ?_, fun hop h0 h1 h2 => ?_⟩
  · rw [hop, decodeCommand_nop]
  · rw [hop, decodeCommand_gen]
  · rw [hop, decodeCommand_reserved]
  · rw [hop]
    exact decodeCommand_cfg_of_fits h0 h1 h2

/-- Settles O9: three opcodes whatever the bus, and the example of R75 evaluated. -/
theorem sampleCyclesDecode : Obligations.SampleCyclesDecode :=
  ⟨fun b0 b1 b2 => ⟨decodeCommand_nop 8 b0 b1 b2, decodeCommand_gen 8 b0 b1 b2, decodeCommand_reserved 8 b0 b1 b2⟩,
    by decide⟩

/-! What a `CFG` reads of its operands. -/

/-- R92: the checks on operands whose mask has the width of its port. -/
theorem checkReg_eq_none_of_mask {lmax : Nat} {c : RegConfig} (i : RegIdx)
    (h : 1 ≤ c.len ∧ c.len ≤ lmax ∧ c.tap.length = lmax ∧ ∀ k, c.len ≤ k → k < lmax → bitAt c.tap k = false) :
    checkReg lmax i c = none := by
  obtain ⟨hpos, hle, hwidth, hmask⟩ := h
  exact (checkReg_eq_none_iff lmax i c).mpr
    ⟨hpos, hle, (sliceNonzero_eq_false_iff_of_length hwidth c.len).mpr hmask⟩

/-- Settles O22: every check passes, and the commit is the state the statement writes out. -/
theorem cfgLoadsAcceptedConfiguration : Obligations.CfgLoadsAcceptedConfiguration := by
  intro s c0 c1 c2 h
  have hcheck : checkCfg s.lmax c0 c1 c2 = none := (checkCfg_eq_none_iff _ _ _ _).mpr
    ⟨checkReg_eq_none_of_mask _ (h c0 (by simp)), checkReg_eq_none_of_mask _ (h c1 (by simp)),
      checkReg_eq_none_of_mask _ (h c2 (by simp))⟩
  exact exec_cfg_of_checkCfg_none hcheck

/-- R92: the checks do not look at the fill. -/
theorem checkReg_congr {c d : RegConfig} (hlen : c.len = d.len) (htap : c.tap = d.tap) (lmax : Nat) (i : RegIdx) :
    checkReg lmax i c = checkReg lmax i d := by
  simp only [checkReg, hlen, htap]

/-- R69: what a register is loaded with depends on the fill below the length only. -/
theorem configuredReg_congr {c d : RegConfig} (hlen : c.len = d.len) (htap : c.tap = d.tap)
    (hwidth : c.fill.length = d.fill.length) (hfill : ∀ j, j < c.len → bitAt c.fill j = bitAt d.fill j) :
    configuredReg c = configuredReg d := by
  have htake : c.fill.take c.len = d.fill.take c.len := take_eq_take_of_bitAt hwidth hfill
  simp only [configuredReg, fillOperand, htake, ← hlen, ← htap]

/-- A `CFG` is known by the answers of its checks and by the registers it would load. -/
theorem exec_cfg_congr {s : State} {c0 c1 c2 d0 d1 d2 : RegConfig}
    (hcheck : checkCfg s.lmax c0 c1 c2 = checkCfg s.lmax d0 d1 d2) (h0 : configuredReg c0 = configuredReg d0)
    (h1 : configuredReg c1 = configuredReg d1) (h2 : configuredReg c2 = configuredReg d2) :
    exec (.cfg c0 c1 c2) s = exec (.cfg d0 d1 d2) s := by
  cases hc : checkCfg s.lmax c0 c1 c2 with
  | none =>
    rw [exec_cfg_of_checkCfg_none hc, exec_cfg_of_checkCfg_none (hcheck ▸ hc)]
    simp only [State.commit, h0, h1, h2]
  | some e => rw [exec_cfg_of_checkCfg_some hc, exec_cfg_of_checkCfg_some (hcheck ▸ hc)]

/-- Settles O25: neither the checks nor the registers loaded see a fill bit at the length or above. -/
theorem fillBitsAboveLengthIgnored : Obligations.FillBitsAboveLengthIgnored := by
  intro s c0 c1 c2 d0 d1 d2 h
  obtain ⟨len0, tap0, width0, fill0⟩ := h (c0, d0) (by simp)
  obtain ⟨len1, tap1, width1, fill1⟩ := h (c1, d1) (by simp)
  obtain ⟨len2, tap2, width2, fill2⟩ := h (c2, d2) (by simp)
  refine exec_cfg_congr ?_ (configuredReg_congr len0 tap0 width0 fill0) (configuredReg_congr len1 tap1 width1 fill1)
    (configuredReg_congr len2 tap2 width2 fill2)
  rw [checkCfg, checkReg_congr len0 tap0, checkReg_congr len1 tap1, checkReg_congr len2 tap2, checkCfg]

/-! The ports. -/

/-- R13: the length bus holds every length up to `LMAX`. -/
theorem lt_two_pow_lenWidth {lmax n : Nat} (h : n ≤ lmax) : n < 2 ^ lenWidth lmax :=
  h.trans_lt ((lenWidth_le_iff_lt_two_pow lmax _).mp le_rfl)

/-- R78: what a content port shows, on `LMAX` wires. -/
theorem contentPort_spec (lmax : Nat) (r : ShiftReg) :
    (contentPort lmax r).length = lmax
      ∧ ∀ j, j < lmax → bitAt (contentPort lmax r) j = if j < r.len then bitAt r.content j else false :=
  ⟨by simp [contentPort], fun _ hj => bitAt_map_range _ hj⟩

/-- R79: what a length port shows, on `W_LEN` wires. -/
theorem lenPort_spec {lmax : Nat} {r : ShiftReg} (h : r.wf lmax) :
    (lenPort lmax r).length = lenWidth lmax ∧ bitsToNat (lenPort lmax r) = r.len := by
  obtain ⟨-, hlen, -, -⟩ := h
  exact ⟨natToBits_length _ _, bitsToNat_natToBits (lt_two_pow_lenWidth hlen)⟩

/-- R79: a tap port shows the mask. -/
theorem tapPort_eq {lmax : Nat} {r : ShiftReg} (h : r.wf lmax) : tapPort lmax r = r.tap := by
  obtain ⟨-, -, hwidth, -⟩ := h
  exact map_range_bitAt hwidth

/-- Settles O31, from the three kinds of port of a well-formed register. -/
theorem portsShowTheState : Obligations.PortsShowTheState := by
  rintro s ⟨-, hw, h0, h1, h2, -⟩
  refine ⟨_, if_pos hw, rfl, rfl, rfl, ?_, ?_, tapPort_eq h0, tapPort_eq h1, tapPort_eq h2⟩
  · simp only [List.forall_mem_cons]
    exact ⟨contentPort_spec _ _, contentPort_spec _ _, contentPort_spec _ _, by simp⟩
  · simp only [List.forall_mem_cons]
    exact ⟨lenPort_spec h0, lenPort_spec h1, lenPort_spec h2, by simp⟩

/-! The cycles of `KEYSTREAM`. -/

/-- R100: a `GEN` on a block that is `READY`. -/
theorem exec_gen_of_ready {s : State} (h : s.ready = true) : exec .gen s = .next s.generate := by
  simp [exec, execGen, h]

/-- R100, R144: one cycle that carries a `GEN` to a block that is `READY`. -/
theorem step_gen_of_ready {s : State} {rest : List Cycle} (hw : s.wasReset = true) (hr : s.ready = true)
    (hp : s.pending = encode s.lmax .gen :: rest) : step s = .next (State.generate { s with pending := rest }) :=
  (step_command hp hw (decodeInvertsEncode s.lmax .gen rfl)).trans (exec_gen_of_ready hr)

/-- R76: `n` cycles of `GEN` to a block that is `READY`, which it stays. -/
theorem trace_gens {s : State} {n : Nat} (hw : s.wasReset = true) (hr : s.ready = true)
    (hp : s.pending = List.replicate n (encode s.lmax .gen)) :
    ∃ l, trace n s = .next l ∧ (producedBits l).length = n ∧ ∀ e ∈ l, e.2.ready = true ∧ e.2.bitValid = true := by
  induction n generalizing s with
  | zero => exact ⟨[], rfl, rfl, by simp⟩
  | succ n ih =>
    rw [List.replicate_succ] at hp
    obtain ⟨l, hl, hbits, hall⟩ :=
      ih (s := State.generate { s with pending := List.replicate n (encode s.lmax .gen) }) (by simpa using hw)
        (by simpa using hr) (by simp)
    refine ⟨_, trace_of_next hp (step_gen_of_ready hw hr hp) hl, ?_, List.forall_mem_cons.mpr ⟨?_, hall⟩⟩
    · rw [producedBits_cons, List.length_append, hbits]
      simp [State.producedBit, Nat.add_comm]
    · simpa using hr

/-- Settles O39, by induction on the number of `GEN`s. -/
theorem keystreamProducesNBits : Obligations.KeystreamProducesNBits :=
  fun _ _ hw hr => trace_gens hw hr rfl

/-! The list form of a configuration. -/

@[simp] theorem tapMask_length (lmax : Nat) (taps : List Nat) : (tapMask lmax taps).length = lmax := by
  simp [tapMask]

@[simp] theorem fillBus_length (lmax : Nat) (fill : Bits) : (fillBus lmax fill).length = lmax := by
  simp [fillBus]

theorem bitAt_tapMask {lmax k : Nat} (taps : List Nat) (h : k < lmax) :
    bitAt (tapMask lmax taps) k = (taps.count (k + 1) % 2 == 1) :=
  bitAt_map_range _ h

/-- R71: a fill that fits the bus is read back from it. -/
theorem take_fillBus {lmax : Nat} {fill : Bits} (h : fill.length ≤ lmax) :
    (fillBus lmax fill).take fill.length = fill := by
  rw [fillBus, ← List.map_take, List.take_range, Nat.min_eq_left h]
  exact map_range_bitAt rfl

/-- R71: the mask has no bit at or above a bound the taps keep to. -/
theorem sliceNonzero_tapMask_of_le {taps : List Nat} {n : Nat} (lmax : Nat) (h : ∀ p ∈ taps, p ≤ n) :
    sliceNonzero (tapMask lmax taps) n = false := by
  refine (sliceNonzero_eq_false_iff_of_length (tapMask_length lmax taps) n).mpr fun k hn hk => ?_
  have hnot : k + 1 ∉ taps := fun hmem => by
    have := h _ hmem
    omega
  simp [bitAt_tapMask taps hk, List.count_eq_zero_of_not_mem hnot]

/-- R87: the tap mask the host makes from a tap list gives the feedback of the list, repeats included. -/
theorem feedback_tapMask {lmax : Nat} {c : Bits} {taps : List Nat} (hc : c.length ≤ lmax)
    (htaps : ∀ p ∈ taps, 1 ≤ p ∧ p ≤ c.length) :
    ShiftReg.feedback { content := c, len := c.length, tap := tapMask lmax taps } =
      parity (taps.map fun p => bitAt c (c.length - p)) := by
  have hpositions : ShiftReg.tapPositions { content := c, len := c.length, tap := tapMask lmax taps } =
      (List.range' 1 c.length).filter fun p => taps.count p % 2 == 1 := by
    refine List.filter_congr fun p hp => ?_
    have hp : 1 ≤ p ∧ p < 1 + c.length := List.mem_range'_1.mp hp
    rw [bitAt_tapMask taps (by omega), Nat.sub_add_cancel hp.1]
  have hmem : ∀ p ∈ taps, p ∈ List.range' 1 c.length := fun p hp => by
    have := htaps p hp
    rw [List.mem_range'_1]
    omega
  rw [ShiftReg.feedback, ShiftReg.tapIndices, hpositions, List.map_map]
  exact parity_odd_occurrences _ List.nodup_range' hmem

/-- R63, R71: the host's conversion of a fill of at most `LMAX` bits fits the ports. -/
theorem operands_wellFormed_of_list {lmax : Nat} {r : ListReg} (h : r.fill.length ≤ lmax) :
    (r.operands lmax).wellFormed lmax = true := by
  simp [RegConfig.wellFormed, ListReg.operands, lt_two_pow_lenWidth h]

/-- R71, R94: what the conversion of a fill of at most `LMAX` bits configures. -/
theorem configuredReg_operands {lmax : Nat} {r : ListReg} (h : r.fill.length ≤ lmax) :
    configuredReg (r.operands lmax) =
      { content := r.fill, len := r.fill.length, tap := tapMask lmax r.taps } := by
  simp only [configuredReg, fillOperand, ListReg.operands, take_fillBus h]

/-- R71, R75: the host drives a list form whose taps lie in `1..L` and whose fill has at most `LMAX` bits. -/
theorem unencodable_eq_false {lmax : Nat} {r : ListReg} (hle : r.fill.length ≤ lmax)
    (htaps : ∀ p ∈ r.taps, 1 ≤ p ∧ p ≤ r.fill.length) : r.unencodable lmax = false := by
  have hany : r.taps.any (fun p => p < 1 || p > r.fill.length || p > lmax) = false :=
    List.any_eq_false.mpr fun p hp => by
      have := htaps p hp
      simp only [Bool.or_eq_true, decide_eq_true_eq]
      omega
  have hbus := lt_two_pow_lenWidth hle
  rw [ListReg.unencodable, hany, Bool.false_or, decide_eq_false_iff_not]
  omega

/-- R71: where every list form can be driven the host issues the `CFG`. -/
theorem convertList_of_encodable {lmax : Nat} {r0 r1 r2 : ListReg} (h0 : r0.unencodable lmax = false)
    (h1 : r1.unencodable lmax = false) (h2 : r2.unencodable lmax = false) :
    convertList lmax r0 r1 r2 = .ok (.cfg (r0.operands lmax) (r1.operands lmax) (r2.operands lmax)) := by
  simp [convertList, h0, h1, h2]

/-- R71, R92: the block accepts the conversion of a valid list form. -/
theorem checkReg_operands_eq_none {lmax : Nat} {r : ListReg} (i : RegIdx) (hpos : 1 ≤ r.fill.length)
    (hle : r.fill.length ≤ lmax) (htaps : ∀ p ∈ r.taps, 1 ≤ p ∧ p ≤ r.fill.length) :
    checkReg lmax i (r.operands lmax) = none :=
  (checkReg_eq_none_iff lmax i _).mpr ⟨hpos, hle, sliceNonzero_tapMask_of_le lmax fun p hp => (htaps p hp).2⟩

/-- R71, R87: the register that the conversion of a valid list form configures. -/
theorem configuredReg_operands_spec {lmax : Nat} {r : ListReg} (hle : r.fill.length ≤ lmax)
    (htaps : ∀ p ∈ r.taps, 1 ≤ p ∧ p ≤ r.fill.length) :
    (configuredReg (r.operands lmax)).content = r.fill ∧ (configuredReg (r.operands lmax)).len = r.fill.length
      ∧ (configuredReg (r.operands lmax)).feedback =
          parity (r.taps.map fun p => bitAt r.fill (r.fill.length - p)) := by
  rw [configuredReg_operands hle]
  exact ⟨rfl, rfl, feedback_tapMask hle htaps⟩

/-- Settles O43: the host drives the configuration, the block accepts it, and each register is what the list says. -/
theorem listConfigurationIsLoaded : Obligations.ListConfigurationIsLoaded := by
  intro s r0 r1 r2 h
  obtain ⟨pos0, le0, taps0⟩ := h r0 (by simp)
  obtain ⟨pos1, le1, taps1⟩ := h r1 (by simp)
  obtain ⟨pos2, le2, taps2⟩ := h r2 (by simp)
  have hconvert := convertList_of_encodable (unencodable_eq_false le0 taps0) (unencodable_eq_false le1 taps1)
    (unencodable_eq_false le2 taps2)
  have hcheck := (checkCfg_eq_none_iff s.lmax _ _ _).mpr ⟨checkReg_operands_eq_none .r0 pos0 le0 taps0,
    checkReg_operands_eq_none .r1 pos1 le1 taps1, checkReg_operands_eq_none .r2 pos2 le2 taps2⟩
  refine ⟨_, _, hconvert, ?_, exec_cfg_of_checkCfg_none hcheck, rfl, ?_⟩
  · simp only [Instr.wellFormed, operands_wellFormed_of_list le0, operands_wellFormed_of_list le1,
      operands_wellFormed_of_list le2, Bool.and_self]
  · simp only [List.forall_mem_cons]
    exact ⟨configuredReg_operands_spec le0 taps0, configuredReg_operands_spec le1 taps1,
      configuredReg_operands_spec le2 taps2, by simp⟩

/-! The error the host reports. -/

/-- R71: of a tap list without repeats that the mask can hold, the mask has a bit at or above the length exactly when
some tap lies outside `1..L`. -/
theorem sliceNonzero_tapMask_eq_any {lmax : Nat} {taps : List Nat} (hnodup : taps.Nodup)
    (hmem : ∀ p ∈ taps, 1 ≤ p ∧ p ≤ lmax) (n : Nat) :
    sliceNonzero (tapMask lmax taps) n = taps.any fun p => p < 1 || p > n := by
  cases hany : taps.any fun p => p < 1 || p > n with
  | false =>
    refine sliceNonzero_tapMask_of_le lmax fun p hp => ?_
    have hin := List.any_eq_false.mp hany p hp
    simp only [Bool.or_eq_true, decide_eq_true_eq] at hin
    omega
  | true =>
    obtain ⟨p, hp, hout⟩ := List.any_eq_true.mp hany
    obtain ⟨hpos, hle⟩ := hmem p hp
    have hn : n ≤ p - 1 := by
      simp only [Bool.or_eq_true, decide_eq_true_eq] at hout
      omega
    have hbit : bitAt (tapMask lmax taps) (p - 1) = true := by
      rw [bitAt_tapMask taps (by omega), Nat.sub_add_cancel hpos, List.count_eq_one_of_mem hnodup hp]
      rfl
    refine (Bool.not_eq_false _).mp fun hslice => ?_
    simp [(sliceNonzero_eq_false_iff _ _).mp hslice _ hn] at hbit

/-- R71, R93: on such a list form the host's checks are the block's. -/
theorem checkReg_operands_eq_error {lmax : Nat} {r : ListReg} (i : RegIdx)
    (h : r.taps.Nodup ∧ ∀ p ∈ r.taps, 1 ≤ p ∧ p ≤ lmax) :
    checkReg lmax i (r.operands lmax) = r.error lmax i := by
  obtain ⟨hnodup, hmem⟩ := h
  simp only [checkReg, ListReg.error, ListReg.operands, sliceNonzero_tapMask_eq_any hnodup hmem]

/-- R71: the only error the host reports is the first failing check on the lists. -/
theorem listError_of_convertList_error {lmax : Nat} {r0 r1 r2 : ListReg} {e : BlockError}
    (h : convertList lmax r0 r1 r2 = .error e) : listError lmax r0 r1 r2 = some e := by
  unfold convertList at h
  split_ifs at h
  cases he : listError lmax r0 r1 r2 with
  | none => simp [he] at h
  | some e' => simpa [he] using h

/-- Settles O44: register by register the block's checks of the operands are the host's checks of the list. -/
theorem hostReportsTheBlocksError : Obligations.HostReportsTheBlocksError := by
  intro s r0 r1 r2 e h herror
  refine exec_cfg_of_checkCfg_some ?_
  calc checkCfg s.lmax (r0.operands s.lmax) (r1.operands s.lmax) (r2.operands s.lmax)
      = listError s.lmax r0 r1 r2 := by
        rw [checkCfg, checkReg_operands_eq_error _ (h r0 (by simp)), checkReg_operands_eq_error _ (h r1 (by simp)),
          checkReg_operands_eq_error _ (h r2 (by simp)), listError]
    _ = some e := listError_of_convertList_error herror

end Sys2Proof.Machine
end

section
/-! Proofs of the statements of 40_shift_register.md: the clock primitive (R81 to R86), the feedback of a tap list and the
outputs of a register (R87 to R89), the checks of `CFG` (R93, R95), and what the bits after a `CFG` depend on (R97, R111). -/

namespace Sys2Proof

/-- R19: the parity of a collection does not depend on the direction it is read in. -/
theorem parity_reverse (b : Bits) : parity b.reverse = parity b := by
  induction b with
  | nil => rfl
  | cons x xs ih => simp [parity_append, ih, Bool.xor_comm]

/-- Reading a content through the back-relative positions `1..L` reads it from the back to the front (R18, R30). -/
theorem map_range'_bitAt_eq_reverse (c : Bits) :
    (List.range' 1 c.length).map (fun p => bitAt c (c.length - p)) = c.reverse := by
  refine List.ext_getElem (by simp) fun k hk _ => ?_
  rw [List.length_map, List.length_range'] at hk
  rw [List.getElem_map, List.getElem_range', bitAt_of_lt (by omega), List.getElem_reverse]
  congr 1
  omega

end Sys2Proof

namespace Sys2Proof.Machine

/-! One clock, cell by cell. -/

/-- R83: the feedback, read at the tap positions. -/
theorem feedback_eq (r : ShiftReg) :
    r.feedback = parity (r.tapPositions.map fun p => bitAt r.content (r.len - p)) := by
  rw [ShiftReg.feedback, ShiftReg.tapIndices, List.map_map]
  rfl

/-- R84: every cell but the back one takes the bit of the cell behind it. -/
theorem bitAt_clocked_of_lt {r : ShiftReg} {j : Nat} (h : j + 1 < r.content.length) :
    bitAt r.clocked.content j = bitAt r.content (j + 1) := by
  have hj : j < (r.content.drop 1).length := by
    rw [List.length_drop]
    omega
  simp only [bitAt, List.getD_eq_getElem?_getD, ShiftReg.clocked, List.getElem?_append_left hj, List.getElem?_drop,
    Nat.add_comm 1 j]

/-- R84: the back cell takes the feedback bit. -/
theorem bitAt_clocked_back (r : ShiftReg) : bitAt r.clocked.content (r.content.length - 1) = r.feedback := by
  simp [bitAt, ShiftReg.clocked]

/-- Settles O15, from what a clock does to the cells and from the frame of `setReg`. -/
theorem clockShiftsAndAppendsParity : Obligations.ClockShiftsAndAppendsParity := by
  intro s i hlen hpos
  have hback := bitAt_clocked_back (s.reg i)
  rw [hlen, feedback_eq] at hback
  rw [reg_clock_same]
  exact ⟨rfl, fun j hj => bitAt_clocked_of_lt (by omega), hback, (clocked_content_length (by omega)).trans hlen, rfl,
    rfl, rfl⟩

/-- Settles O17: `feedback_tapMask` is the statement. -/
theorem maskFeedbackEqualsListFeedback : Obligations.MaskFeedbackEqualsListFeedback :=
  fun _ _ _ hc htaps => feedback_tapMask hc htaps

/-! The clocks of a register one after the other. -/

@[simp] theorem iterate_clocked_tapPositions (r : ShiftReg) (k : Nat) :
    (ShiftReg.clocked^[k] r).tapPositions = r.tapPositions := by
  induction k with
  | zero => rfl
  | succ k ih => rw [Function.iterate_succ_apply', clocked_tapPositions, ih]

section Clocks

variable {r : ShiftReg}

/-- R25: any number of clocks keeps the number of bits. -/
theorem iterate_clocked_content_length (h : r.content.length = r.len) (hpos : 1 ≤ r.len) (k : Nat) :
    (ShiftReg.clocked^[k] r).content.length = r.len := by
  induction k with
  | zero => exact h
  | succ k ih => rw [Function.iterate_succ_apply', clocked_content_length (by omega), ih]

/-- R82, R84: the bit in cell `j` comes out at the `j`-th clock from now. -/
theorem front_iterate_clocked (h : r.content.length = r.len) {j : Nat} (hj : j < r.len) :
    (ShiftReg.clocked^[j] r).front = bitAt r.content j := by
  induction j generalizing r with
  | zero => rfl
  | succ j ih =>
    have hlen : r.clocked.content.length = r.clocked.len := (clocked_content_length (by omega)).trans h
    rw [Function.iterate_succ_apply, ih hlen (Nat.lt_of_succ_lt hj), bitAt_clocked_of_lt (by omega)]

/-- R89: the content is the next `L` outputs, front first. -/
theorem content_eq_map_front (h : r.content.length = r.len) :
    r.content = (List.range r.len).map fun j => (ShiftReg.clocked^[j] r).front := by
  refine (map_range_bitAt h).symm.trans (List.map_congr_left fun j hj => ?_)
  rw [front_iterate_clocked h (List.mem_range.mp hj)]

/-- R83, R89: the feedback bit comes out `L` clocks from now. -/
theorem front_iterate_clocked_len (h : r.content.length = r.len) (hpos : 1 ≤ r.len) :
    (ShiftReg.clocked^[r.len] r).front = r.feedback := by
  obtain ⟨n, hn⟩ := Nat.exists_eq_add_of_le' hpos
  have hlen : r.clocked.content.length = r.clocked.len := (clocked_content_length (by omega)).trans h
  calc (ShiftReg.clocked^[r.len] r).front
      = (ShiftReg.clocked^[n] r.clocked).front := by rw [hn, Function.iterate_succ_apply]
    _ = bitAt r.clocked.content n := front_iterate_clocked hlen (by rw [clocked_len]; omega)
    _ = r.feedback := by rw [← bitAt_clocked_back, h, hn, Nat.add_sub_cancel]

end Clocks

/-- Settles O18: both halves hold of any register, and after `t` clocks it is the register with the same length and
taps that they are asked of. -/
theorem registerOutputRecurrence : Obligations.RegisterOutputRecurrence := by
  intro r t h hpos
  have ht : (ShiftReg.clocked^[t] r).content.length = (ShiftReg.clocked^[t] r).len := by
    rw [iterate_clocked_content_length h hpos, iterate_clocked_len]
  have hshift (j : Nat) : ShiftReg.clocked^[t + j] r = ShiftReg.clocked^[j] (ShiftReg.clocked^[t] r) := by
    rw [Nat.add_comm, Function.iterate_add_apply]
  constructor
  · simp only [hshift]
    simpa using content_eq_map_front ht
  · have hfront := front_iterate_clocked_len ht (by simpa using hpos)
    rw [iterate_clocked_len, ← hshift] at hfront
    rw [hfront, feedback_eq, iterate_clocked_tapPositions, iterate_clocked_len]
    refine congrArg parity (List.map_congr_left fun p hp => ?_)
    obtain ⟨hp1, hpl, -⟩ := mem_tapPositions.mp hp
    rw [Nat.add_sub_assoc hpl, hshift, front_iterate_clocked ht (by rw [iterate_clocked_len]; omega)]

/-! Particular tap sets. -/

/-- R88, row 3: with tap position `L` alone the front bit goes to the back. -/
theorem clocked_of_front_tap {r : ShiftReg} (h : r.content.length = r.len) (hpos : 1 ≤ r.len)
    (htaps : r.tapPositions = [r.len]) : r.clocked = { r with content := r.content.rotate 1 } := by
  have hfeedback : r.feedback = bitAt r.content 0 := by simp [feedback_eq, htaps]
  obtain ⟨b, bs, hcontent⟩ := List.exists_cons_of_length_pos (l := r.content) (by omega)
  simp [ShiftReg.clocked, hfeedback, hcontent, bitAt]

/-- R88, row 3: `k` clocks rotate by `k`. -/
theorem iterate_clocked_of_front_tap {r : ShiftReg} (h : r.content.length = r.len) (hpos : 1 ≤ r.len)
    (htaps : r.tapPositions = [r.len]) (k : Nat) :
    ShiftReg.clocked^[k] r = { r with content := r.content.rotate k } := by
  induction k with
  | zero => simp
  | succ k ih =>
    rw [Function.iterate_succ_apply', ih,
      clocked_of_front_tap (r := { r with content := r.content.rotate k }) (by simpa using h) hpos htaps,
      List.rotate_rotate]

/-- Settles O20: `L` rotations by one are the identity. -/
theorem frontTapRotates : Obligations.FrontTapRotates := by
  intro r n h hpos htaps
  have hperiod : ShiftReg.clocked^[r.len] r = r := by
    have hrotate : r.content.rotate r.len = r.content := h ▸ List.rotate_length r.content
    rw [iterate_clocked_of_front_tap h hpos htaps, hrotate]
  refine ⟨by rw [clocked_of_front_tap h hpos htaps], hperiod, ?_, fun hone => ?_⟩
  · rw [Function.iterate_add_apply, hperiod]
  · have hfix : r.clocked = r := by simpa [hone] using hperiod
    rw [Function.iterate_fixed hfix]
    exact ⟨rfl, rfl⟩

/-- R88, row 6: with tap position 1 alone the feedback is the back bit. -/
theorem feedback_of_back_tap {r : ShiftReg} (htaps : r.tapPositions = [1]) :
    r.feedback = bitAt r.content (r.len - 1) := by
  simp [feedback_eq, htaps]

/-- R88, row 6: after `k` clocks with tap position 1 alone the last `k + 1` cells hold the original back bit. -/
theorem bitAt_iterate_clocked_of_back_tap {r : ShiftReg} (h : r.content.length = r.len) (hpos : 1 ≤ r.len)
    (htaps : r.tapPositions = [1]) {k j : Nat} (hj : r.len ≤ j + k + 1) (hjl : j < r.len) :
    bitAt (ShiftReg.clocked^[k] r).content j = bitAt r.content (r.len - 1) := by
  induction k generalizing j with
  | zero =>
    obtain rfl : j = r.len - 1 := by omega
    rfl
  | succ k ih =>
    have hk := iterate_clocked_content_length h hpos k
    rw [Function.iterate_succ_apply']
    by_cases hback : j + 1 < r.len
    · rw [bitAt_clocked_of_lt (by omega), ih (by omega) hback]
    · obtain rfl : j = r.len - 1 := by omega
      rw [← hk, bitAt_clocked_back, hk, feedback_of_back_tap (by simpa using htaps), iterate_clocked_len,
        ih (by omega) hjl]

/-- R88, row 7: with every position tapped the feedback is the parity of the content, read from the back. -/
theorem feedback_of_all_taps {r : ShiftReg} (h : r.content.length = r.len)
    (htaps : r.tapPositions = List.range' 1 r.len) : r.feedback = parity r.content := by
  rw [feedback_eq, htaps, ← h, map_range'_bitAt_eq_reverse, parity_reverse]

/-- Settles O21: after `L - 1` clocks the last `L` cells are all of them. -/
theorem backTapCopiesAndAllTapsSum : Obligations.BackTapCopiesAndAllTapsSum := by
  intro r h htwo
  have hpos : 1 ≤ r.len := by omega
  refine ⟨fun htaps => ⟨feedback_of_back_tap htaps, ?_⟩, feedback_of_all_taps h⟩
  have hlen := iterate_clocked_content_length h hpos (r.len - 1)
  refine List.ext_getElem (by simpa using hlen) fun j hj _ => ?_
  rw [← bitAt_of_lt hj, List.getElem_replicate]
  exact bitAt_iterate_clocked_of_back_tap h hpos htaps (by omega) (by omega)

/-! The checks of `CFG`, and what it reports. -/

/-- R92: an operand set with one of the three faults fails its register's checks. -/
theorem checkReg_ne_none {lmax : Nat} {c : RegConfig} (i : RegIdx)
    (h : c.len = 0 ∨ lmax < c.len ∨ ∃ k, c.len ≤ k ∧ k < lmax ∧ bitAt c.tap k = true) :
    checkReg lmax i c ≠ none := by
  intro hnone
  obtain ⟨hpos, hle, hslice⟩ := (checkReg_eq_none_iff lmax i c).mp hnone
  obtain hzero | hlong | ⟨k, hk, -, hbit⟩ := h
  · omega
  · omega
  · simp [(sliceNonzero_eq_false_iff _ _).mp hslice k hk] at hbit

/-- R95, R117: the error of a rejected `CFG` writes its cause, which is not `NONE`, the register, and nothing else. -/
theorem raise_of_checkCfg_eq {lmax : Nat} {c0 c1 c2 : RegConfig} {e : BlockError}
    (h : checkCfg lmax c0 c1 c2 = some e) (s : State) :
    ∃ cause reg, cause ≠ .none ∧ s.raise e = { s with cfgCause := cause, cfgReg := reg } := by
  obtain ⟨i, rfl | rfl | rfl⟩ := checkCfg_cases h
  · exact ⟨.lenZero, regCode i, by decide, rfl⟩
  · exact ⟨.lenTooLong, regCode i, by decide, rfl⟩
  · exact ⟨.tapRange, regCode i, by decide, rfl⟩

/-- Settles O23: a register that fails its checks makes the whole `CFG` fail. -/
theorem cfgRejectedChangesOnlyItsResult : Obligations.CfgRejectedChangesOnlyItsResult := by
  rintro s c0 c1 c2 ⟨c, hc, hfault⟩
  have hcheck : checkCfg s.lmax c0 c1 c2 ≠ none := fun hnone => by
    obtain ⟨h0, h1, h2⟩ := (checkCfg_eq_none_iff _ _ _ _).mp hnone
    simp only [List.mem_cons, List.not_mem_nil, or_false] at hc
    obtain rfl | rfl | rfl := hc
    exacts [checkReg_ne_none _ hfault h0, checkReg_ne_none _ hfault h1, checkReg_ne_none _ hfault h2]
  obtain ⟨e, he⟩ := Option.ne_none_iff_exists'.mp hcheck
  obtain ⟨cause, reg, hcause, hraise⟩ := raise_of_checkCfg_eq he s
  exact ⟨cause, reg, hcause, by rw [exec_cfg_of_checkCfg_some he, hraise]; rfl⟩

/-- What a `CFG` reports in `CFG_CAUSE` and `CFG_REG` when its checks answer `e` (R117, R118). -/
def cfgResult : Option BlockError → CfgCause × BitVec 2
  | some (.lenZero i) => (.lenZero, regCode i)
  | some (.lenTooLong i) => (.lenTooLong, regCode i)
  | some (.tapRange i) => (.tapRange, regCode i)
  | _ => (.none, 0b00#2)

/-- R91, R119: what `CFG_CAUSE` and `CFG_REG` show after a `CFG`. -/
theorem exec_cfg_reports (s : State) (c0 c1 c2 : RegConfig) :
    ∃ t, exec (.cfg c0 c1 c2) s = .next t ∧ (t.cfgCause, t.cfgReg) = cfgResult (checkCfg s.lmax c0 c1 c2) := by
  cases hc : checkCfg s.lmax c0 c1 c2 with
  | none => exact ⟨_, exec_cfg_of_checkCfg_none hc, rfl⟩
  | some e =>
    refine ⟨_, exec_cfg_of_checkCfg_some hc, ?_⟩
    obtain ⟨i, rfl | rfl | rfl⟩ := checkCfg_cases hc <;> rfl

/-- The first error of three, taken one register at a time. -/
theorem firstError_eq_or (e0 e1 e2 : Option BlockError) : firstError e0 e1 e2 = e0.or (e1.or (e2.or none)) := by
  cases e0 <;> cases e1 <;> cases e2 <;> rfl

/-- R92: the third check, wire by wire, on a mask of the width of its port. -/
theorem sliceNonzero_eq_any {b : Bits} {n : Nat} (hb : b.length = n) (lo : Nat) :
    sliceNonzero b lo = (List.range n).any fun k => decide (lo ≤ k) && bitAt b k := by
  refine Bool.not_inj (Bool.coe_false_iff_false.mp ?_)
  rw [sliceNonzero_eq_false_iff_of_length hb, List.any_eq_false]
  simp only [List.mem_range, Bool.and_eq_true, decide_eq_true_eq, not_and, Bool.not_eq_true]
  exact forall_congr' fun k => forall_comm

/-- R93: within a register the length zero, the length too long, the taps; then the registers that follow. -/
theorem cfgResult_checkReg_or {lmax : Nat} {c : RegConfig} (h : c.wellFormed lmax = true) (i : RegIdx)
    (rest : Option BlockError) :
    cfgResult ((checkReg lmax i c).or rest) =
      if c.len = 0 then (CfgCause.lenZero, regCode i)
      else if lmax < c.len then (CfgCause.lenTooLong, regCode i)
      else if (List.range lmax).any fun k => decide (c.len ≤ k) && bitAt c.tap k then (CfgCause.tapRange, regCode i)
      else cfgResult rest := by
  simp only [RegConfig.wellFormed, Bool.and_eq_true, beq_iff_eq] at h
  obtain ⟨-, hwidth⟩ := h
  rw [← sliceNonzero_eq_any hwidth, checkReg]
  split_ifs <;> rfl

/-- Settles O24, one register after the other. -/
theorem cfgReportsFirstFailingCheck : Obligations.CfgReportsFirstFailingCheck := by
  intro s c0 c1 c2 hwf
  simp only [Instr.wellFormed, Bool.and_eq_true] at hwf
  obtain ⟨⟨h0, h1⟩, h2⟩ := hwf
  obtain ⟨t, ht, hresult⟩ := exec_cfg_reports s c0 c1 c2
  refine ⟨t, ht, ?_⟩
  rw [hresult, checkCfg, firstError_eq_or, cfgResult_checkReg_or h0, cfgResult_checkReg_or h1, cfgResult_checkReg_or h2]
  rfl

/-! Every command completes. -/

theorem exists_exec_eq_next (i : Instr) (s : State) : ∃ t, exec i s = .next t := by
  cases i <;> exact ⟨_, rfl⟩

/-- Settles O38: no arm of `exec` stops, and no command writes a field of the host's. -/
theorem noCommandStopsTheBlock : Obligations.NoCommandStopsTheBlock := by
  intro i s
  obtain ⟨t, ht⟩ := exists_exec_eq_next i s
  obtain ⟨hlmax, -, hpending⟩ := exec_keeps_host_fields ht
  exact ⟨t, ht, hpending, hlmax⟩

/-! What the bits after a `CFG` depend on. -/

/-- R114: the step at an idle cycle of a block that has been reset. -/
theorem step_idle {s : State} {c : Cycle} {rest : List Cycle} (hp : s.pending = c :: rest)
    (hw : s.wasReset = true) (hd : decode s.lmax c = .error .idleCycle) :
    step s = .next (State.clearBitValid { s with pending := rest }) := by
  simp [step, State.takeCycle, hp, hw, hd]

/-- Two blocks that agree on all that a later bit depends on: the registers, `READY`, and the fields of the model's own.
The status fields, `BIT_OUT` and `BIT_VALID` may differ. -/
structure SameGenerator (s s' : State) : Prop where
  lmax : s.lmax = s'.lmax
  wasReset : s.wasReset = s'.wasReset
  decider : s.decider = s'.decider
  first : s.first = s'.first
  second : s.second = s'.second
  ready : s.ready = s'.ready
  pending : s.pending = s'.pending

namespace SameGenerator

variable {s s' : State}

theorem withPending (h : SameGenerator s s') (rest : List Cycle) :
    SameGenerator { s with pending := rest } { s' with pending := rest } :=
  { h with pending := rfl }

theorem clearBitValid (h : SameGenerator s s') : SameGenerator s.clearBitValid s'.clearBitValid :=
  { h with }

theorem raise (h : SameGenerator s s') (e : BlockError) : SameGenerator (s.raise e) (s'.raise e) := by
  constructor <;> simp [h.lmax, h.wasReset, h.decider, h.first, h.second, h.ready, h.pending]

/-- R94: a commit makes two blocks agree whose registers did not. -/
theorem commit (hl : s.lmax = s'.lmax) (hw : s.wasReset = s'.wasReset) (hp : s.pending = s'.pending)
    (c0 c1 c2 : RegConfig) : SameGenerator (s.commit c0 c1 c2) (s'.commit c0 c1 c2) :=
  ⟨hl, hw, rfl, rfl, rfl, rfl, hp⟩

/-- R103 to R107: a `GEN` reads the registers only, and shows the same bit on two blocks whose registers agree. -/
theorem generate (h : SameGenerator s s') :
    SameGenerator s.generate s'.generate ∧ s.generate.producedBit = s'.generate.producedBit := by
  rw [generate_eq, generate_eq, ← h.decider, ← h.first, ← h.second]
  obtain ⟨-, ho⟩ | ⟨-, -, ho⟩ | ⟨-, -, ho⟩ := combine_cases s.decider.front s.first.front s.second.front <;> rw [ho] <;>
    exact ⟨⟨h.lmax, h.wasReset, rfl, rfl, rfl, h.ready, h.pending⟩, rfl⟩

/-- R97: a command does the same to two such blocks, which agree after it, and shows the same bit. -/
theorem exec_next (h : SameGenerator s s') (i : Instr) :
    ∃ t t', exec i s = .next t ∧ exec i s' = .next t' ∧ SameGenerator t t'
      ∧ t.producedBit = t'.producedBit := by
  cases i with
  | nop => exact ⟨_, _, rfl, rfl, h.clearBitValid, rfl⟩
  | reserved => exact ⟨_, _, rfl, rfl, (h.raise .illegal).clearBitValid, rfl⟩
  | gen =>
    refine ⟨_, _, rfl, rfl, ?_⟩
    rw [← h.ready]
    cases s.ready with
    | true => exact h.generate
    | false => exact ⟨(h.raise .notReady).clearBitValid, rfl⟩
  | cfg c0 c1 c2 =>
    refine ⟨_, _, rfl, rfl, ?_⟩
    rw [← h.lmax]
    cases checkCfg s.lmax c0 c1 c2 with
    | none => exact ⟨(commit h.lmax h.wasReset h.pending c0 c1 c2).clearBitValid, rfl⟩
    | some e => exact ⟨(h.raise e).clearBitValid, rfl⟩

/-- R111: at a cycle that can be driven two such blocks take the same kind of step, agree after it, and show the same
bit. -/
theorem step_next (h : SameGenerator s s') (hw : s.wasReset = true) {c : Cycle} {rest : List Cycle}
    (hp : s.pending = c :: rest) (hd : decode s.lmax c ≠ .error .busWidth) :
    ∃ t t', step s = .next t ∧ step s' = .next t' ∧ SameGenerator t t'
      ∧ t.producedBit = t'.producedBit := by
  have hp' : s'.pending = c :: rest := h.pending ▸ hp
  have hw' : s'.wasReset = true := h.wasReset ▸ hw
  cases hdec : decode s.lmax c with
  | ok i =>
    rw [step_command hp hw hdec, step_command hp' hw' (h.lmax ▸ hdec)]
    exact (h.withPending rest).exec_next i
  | error e =>
    cases e with
    | resetCycle =>
      have hr := (decode_eq_resetCycle_iff _ _).mp hdec
      rw [step_reset hp hr, step_reset hp' hr, ← h.lmax]
      exact ⟨_, _, rfl, rfl, ⟨rfl, rfl, rfl, rfl, rfl, rfl, rfl⟩, rfl⟩
    | idleCycle =>
      rw [step_idle hp hw hdec, step_idle hp' hw' (h.lmax ▸ hdec)]
      exact ⟨_, _, rfl, rfl, (h.withPending rest).clearBitValid, rfl⟩
    | busWidth => exact absurd hdec hd

/-- R111: over any cycles that can be driven two such blocks produce the same bits. -/
theorem trace_next {cycles : List Cycle} (h : SameGenerator s s') (hw : s.wasReset = true) (hp : s.pending = cycles)
    (hd : ∀ c ∈ cycles, decode s.lmax c ≠ .error .busWidth) :
    ∃ l l', trace cycles.length s = .next l ∧ trace cycles.length s' = .next l'
      ∧ producedBits l = producedBits l' := by
  induction cycles generalizing s s' with
  | nil => exact ⟨[], [], rfl, rfl, rfl⟩
  | cons c rest ih =>
    obtain ⟨hc, hrest⟩ := List.forall_mem_cons.mp hd
    obtain ⟨t, t', ht, ht', hsame, hbit⟩ := h.step_next hw hp hc
    obtain ⟨hlmax, hreset, c', hpending⟩ := stepTakesOneCycleAndKeepsLmax s t ht
    obtain ⟨-, hpt⟩ := List.cons.inj (hp.symm.trans hpending)
    obtain ⟨l, l', hl, hl', hbits⟩ := ih hsame hreset hpt.symm (hlmax ▸ hrest)
    refine ⟨_, _, trace_of_next hp ht hl, trace_of_next (h.pending ▸ hp) ht' hl', ?_⟩
    rw [producedBits_cons, producedBits_cons, hbit, hbits]

end SameGenerator

/-- R94, R144: the step at a cycle that carries a `CFG` whose checks pass. -/
theorem step_accepted_cfg {s : State} {rest : List Cycle} {c0 c1 c2 : RegConfig}
    (hp : s.pending = encode s.lmax (.cfg c0 c1 c2) :: rest) (hw : s.wasReset = true)
    (hwf : (Instr.cfg c0 c1 c2).wellFormed s.lmax = true) (hcheck : checkCfg s.lmax c0 c1 c2 = none) :
    step s = .next (State.commit { s with pending := rest } c0 c1 c2).clearBitValid :=
  (step_command hp hw (decodeInvertsEncode s.lmax _ hwf)).trans (exec_cfg_of_checkCfg_none hcheck)

/-- Settles O41: after the `CFG` the two blocks agree on all that a later bit depends on, and it produces none itself. -/
theorem bitsDependOnlyOnConfiguration : Obligations.BitsDependOnlyOnConfiguration := by
  intro s s' c0 c1 c2 cycles hlmax hw hw' hwf hcheck hdriven
  have hsame := (SameGenerator.commit (s := { s with pending := cycles }) (s' := { s' with pending := cycles })
    hlmax (hw.trans hw'.symm) rfl c0 c1 c2).clearBitValid
  have hstep := step_accepted_cfg (s := { s with pending := encode s.lmax (.cfg c0 c1 c2) :: cycles }) rfl hw hwf hcheck
  have hstep' := step_accepted_cfg (s := { s' with pending := encode s.lmax (.cfg c0 c1 c2) :: cycles })
    (by rw [hlmax]) hw' (hlmax ▸ hwf) (hlmax ▸ hcheck)
  obtain ⟨l, l', hl, hl', hbits⟩ := hsame.trace_next hw rfl hdriven
  refine ⟨_, _, trace_of_next rfl hstep hl, trace_of_next rfl hstep' hl', ?_⟩
  rw [producedBits_cons, producedBits_cons, hbits]
  rfl

end Sys2Proof.Machine
end

section
/-! Proofs of the statements of 41_generate.md: `GEN` (R100 to R107), the combiner (R109), the order of the three clocks
of step 1 (R110), and the cycles that leave the keystream alone (R111). -/

namespace Sys2Proof.Machine

/-! The order of the clocks. -/

/-- R110: the clocks of two registers commute, since each reads and writes its own register only. -/
theorem clock_comm (s : State) (i j : RegIdx) : ((s.clock i).2.clock j).2 = ((s.clock j).2.clock i).2 := by
  cases i <;> cases j <;> rfl

/-- Clocks of other registers leave register `i` as it is. -/
theorem reg_foldl_clock {i : RegIdx} {l : List RegIdx} (h : i ∉ l) (s : State) :
    (l.foldl (fun t k => (t.clock k).2) s).reg i = s.reg i := by
  induction l generalizing s with
  | nil => rfl
  | cons k l ih =>
    obtain ⟨hik, hil⟩ := not_or.mp (List.mem_cons.not.mp h)
    rw [List.foldl_cons, ih hil, reg_clock_other s k i hik]

/-- Settles O16: a fold of commuting clocks does not see the order, and a register's clocked output is its own front
bit, which the clocks of the other registers before it leave alone. -/
theorem clockOrderIsNotObservable : Obligations.ClockOrderIsNotObservable := by
  intro s order hperm
  refine ⟨hperm.foldl_eq' (fun i _ j _ t => clock_comm t i j) s, fun before i after horder => ?_⟩
  have hnodup : (before ++ i :: after).Nodup := horder ▸ hperm.nodup_iff.mpr (by decide)
  have hi : i ∉ before := fun hmem => (List.nodup_middle.mp hnodup).notMem (List.mem_append_left _ hmem)
  rw [clock_out, clock_out, reg_foldl_clock hi]

/-! The combiner, branch by branch. -/

section Combiner

variable {d f s : Bool}

/-- R103: no register gets an extra clock. -/
theorem combine_of_eq (h : f = s) : combine d f s = (d, none) := if_pos h

/-- R104: the second register gets the extra clock. -/
theorem combine_of_ne_of_true (h : f ≠ s) (hd : d = true) : combine d f s = (f, some .r2) :=
  (if_neg h).trans (if_pos hd)

/-- R105: the first register gets the extra clock. -/
theorem combine_of_ne_of_false (h : f ≠ s) (hd : d = false) : combine d f s = (s, some .r1) := by
  rw [combine, if_neg h, hd, if_neg Bool.false_ne_true]

/-- R109: where `f` and `s` differ, `f` is the negation of `s`, and the output is `d XOR s`. -/
theorem combine_fst_of_ne (h : f ≠ s) : (combine d f s).1 = xor d s := by
  cases hd : d with
  | true => rw [combine_of_ne_of_true h rfl, Bool.true_xor, Bool.eq_not.mpr h]
  | false => rw [combine_of_ne_of_false h rfl, Bool.false_xor]

end Combiner

/-- Settles O29: the eight rows are evaluations, and the formula is the combiner's branches. -/
theorem combinerTable : Obligations.CombinerTable :=
  ⟨rfl, rfl, rfl, rfl, rfl, rfl, rfl, rfl, fun _ _ _ =>
    ⟨fun h => congrArg Prod.fst (combine_of_eq h), combine_fst_of_ne⟩⟩

/-! `GEN`, refused and producing. -/

/-- R101: a `GEN` on a block that is not `READY`. -/
theorem exec_gen_of_not_ready {s : State} (h : s.ready = false) :
    exec .gen s = .next (s.raise .notReady).clearBitValid := by
  simp [exec, execGen, h]

/-- Settles O27: the error writes `ERR_NOTREADY` alone. -/
theorem genRefusedWhileNotReady : Obligations.GenRefusedWhileNotReady :=
  fun _ hr => exec_gen_of_not_ready hr

/-- Settles O28, one branch of the combiner after the other. -/
theorem genClocksAndOutputs : Obligations.GenClocksAndOutputs := by
  intro s hr _
  rw [exec_gen_of_ready hr, generate_eq]
  refine ⟨fun (hfs : s.first.front = s.second.front) => ?_,
    fun (hfs : s.first.front ≠ s.second.front) (hd : s.decider.front = true) => ?_,
    fun (hfs : s.first.front ≠ s.second.front) (hd : s.decider.front = false) => ?_⟩
  · rw [combine_of_eq hfs]
    rfl
  · rw [combine_of_ne_of_true hfs hd]
    rfl
  · rw [combine_of_ne_of_false hfs hd]
    rfl

/-! Cycles that leave the keystream alone. -/

/-- A cycle that leaves the generator as it is (R111): idle, a `NOP`, the reserved opcode, or a `CFG` that fails its
checks. -/
def InertCycle (lmax : Nat) (c : Cycle) : Prop :=
  decode lmax c = .error .idleCycle ∨ decode lmax c = .ok .nop ∨ decode lmax c = .ok .reserved
    ∨ ∃ c0 c1 c2, decode lmax c = .ok (.cfg c0 c1 c2) ∧ checkCfg lmax c0 c1 c2 ≠ none

theorem InertCycle.carriesGen_eq_false {lmax : Nat} {c : Cycle} (h : InertCycle lmax c) :
    carriesGen lmax c = false := by
  obtain hd | hd | hd | ⟨_, _, _, hd, -⟩ := h <;> simp [carriesGen, hd]

theorem decode_ne_busWidth_of_inert_or_gen {lmax : Nat} {c : Cycle}
    (h : InertCycle lmax c ∨ decode lmax c = .ok .gen) : decode lmax c ≠ .error .busWidth := by
  obtain (hd | hd | hd | ⟨_, _, _, hd, -⟩) | hd := h <;> simp [hd]

/-- R38: `BIT_VALID <- 0` touches nothing that a later bit depends on. -/
theorem SameGenerator.clearBitValid_self (s : State) : SameGenerator s.clearBitValid s :=
  ⟨rfl, rfl, rfl, rfl, rfl, rfl, rfl⟩

/-- R119: an error writes status fields only, and no later bit depends on them. -/
theorem SameGenerator.raise_clearBitValid_self (s : State) (e : BlockError) :
    SameGenerator (s.raise e).clearBitValid s := by
  constructor <;> simp

/-- R111: an inert cycle changes nothing that a later bit depends on, and shows no bit. -/
theorem InertCycle.step_next {s : State} {c : Cycle} {rest : List Cycle} (h : InertCycle s.lmax c)
    (hw : s.wasReset = true) (hp : s.pending = c :: rest) :
    ∃ t, step s = .next t ∧ SameGenerator t { s with pending := rest } ∧ t.producedBit = none := by
  obtain hd | hd | hd | ⟨c0, c1, c2, hd, hcheck⟩ := h
  · exact ⟨_, step_idle hp hw hd, .clearBitValid_self _, rfl⟩
  · exact ⟨_, step_command hp hw hd, .clearBitValid_self _, rfl⟩
  · exact ⟨_, step_command hp hw hd, .raise_clearBitValid_self _ .illegal, rfl⟩
  · obtain ⟨e, he⟩ := Option.ne_none_iff_exists'.mp hcheck
    exact ⟨_, (step_command hp hw hd).trans (exec_cfg_of_checkCfg_some he), .raise_clearBitValid_self _ e, rfl⟩

/-- A `GEN` does not look at the cycles still pending. -/
theorem generate_withPending (s : State) (cycles : List Cycle) :
    State.generate { s with pending := cycles } = { s.generate with pending := cycles } := by
  rw [generate_eq, generate_eq]
  obtain ⟨-, ho⟩ | ⟨-, -, ho⟩ | ⟨-, -, ho⟩ := combine_cases s.decider.front s.first.front s.second.front <;> rw [ho]

/-- R100, R144: one cycle that carries a `GEN` to a block that is `READY`, and the cycles it leaves pending. -/
theorem step_producing_gen {s : State} {c : Cycle} (hw : s.wasReset = true) (hr : s.ready = true)
    (hd : decode s.lmax c = .ok .gen) (rest : List Cycle) :
    step { s with pending := c :: rest } = .next { s.generate with pending := rest } := by
  calc step { s with pending := c :: rest }
      = exec .gen { s with pending := rest } := step_command (s := { s with pending := c :: rest }) rfl hw hd
    _ = .next (State.generate { s with pending := rest }) := exec_gen_of_ready hr
    _ = .next { s.generate with pending := rest } := congrArg _ (generate_withPending s rest)

/-- `s` with `n` cycles of `GEN` pending and nothing else (R76). -/
def State.withGens (s : State) (n : Nat) : State :=
  { s with pending := List.replicate n (encode s.lmax .gen) }

/-- R100: the first of `n + 1` `GEN`s leaves `n` to come. -/
theorem step_withGens_succ {s : State} (hw : s.wasReset = true) (hr : s.ready = true) (n : Nat) :
    step (s.withGens (n + 1)) = .next (s.generate.withGens n) := by
  have hgen : decode s.lmax (encode s.lmax .gen) = .ok .gen := decodeInvertsEncode s.lmax .gen rfl
  have hrest : List.replicate n (encode s.generate.lmax .gen) = List.replicate n (encode s.lmax .gen) := by
    rw [generate_lmax]
  rw [State.withGens, List.replicate_succ, step_producing_gen hw hr hgen, ← hrest]
  rfl

/-- R111: over `GEN`s and inert cycles a block that is `READY` produces the bits that the `GEN`s alone produce. An inert
cycle may be left out, since the block after it and the block without it agree on all that a later bit depends on. -/
theorem trace_of_inert_or_gen {s : State} {cycles : List Cycle} (hw : s.wasReset = true) (hr : s.ready = true)
    (hc : ∀ c ∈ cycles, InertCycle s.lmax c ∨ decode s.lmax c = .ok .gen) :
    ∃ l l', trace cycles.length { s with pending := cycles } = .next l
      ∧ trace (cycles.countP (carriesGen s.lmax)) (s.withGens (cycles.countP (carriesGen s.lmax))) = .next l'
      ∧ producedBits l = producedBits l' := by
  induction cycles generalizing s with
  | nil => exact ⟨[], [], rfl, rfl, rfl⟩
  | cons c rest ih =>
    obtain ⟨hinert | hgen, hrest⟩ := List.forall_mem_cons.mp hc
    case inl =>
      obtain ⟨t, ht, hsame, hnobit⟩ := hinert.step_next (s := { s with pending := c :: rest }) hw rfl
      have hdriven : ∀ d ∈ rest, decode t.lmax d ≠ .error .busWidth := fun d hd =>
        hsame.lmax ▸ decode_ne_busWidth_of_inert_or_gen (hrest d hd)
      obtain ⟨m, l, hm, hl, hskip⟩ := hsame.trace_next (hsame.wasReset.trans hw) hsame.pending hdriven
      obtain ⟨l₁, l', hl₁, hl', hbits⟩ := ih hw hr hrest
      cases hl₁.symm.trans hl
      rw [List.countP_cons_of_neg (by simp [hinert.carriesGen_eq_false])]
      refine ⟨_, l', trace_of_next rfl ht hm, hl', ?_⟩
      rw [producedBits_cons, hnobit, hskip, hbits]
      rfl
    case inr =>
      obtain ⟨l, l', hl, hl', hbits⟩ :=
        ih (s := s.generate) (by simpa using hw) (by simpa using hr) (by simpa using hrest)
      rw [generate_lmax] at hl'
      rw [List.countP_cons_of_pos (by simpa using hgen)]
      refine ⟨_, _, trace_of_next rfl (step_producing_gen hw hr hgen rest) hl,
        trace_of_next List.replicate_succ (step_withGens_succ hw hr _) hl', ?_⟩
      rw [producedBits_cons, producedBits_cons, hbits]
      rfl

/-- Settles O40: `trace_of_inert_or_gen` is the statement, with the kinds of inert cycle under one name. -/
theorem inertCyclesLeaveTheKeystream : Obligations.InertCyclesLeaveTheKeystream := by
  intro s cycles hw hr hc
  refine trace_of_inert_or_gen hw hr fun c hmem => ?_
  obtain hd | hd | hd | hd | hd := hc c hmem
  · exact .inl (.inl hd)
  · exact .inl (.inr (.inl hd))
  · exact .inl (.inr (.inr (.inl hd)))
  · exact .inr hd
  · exact .inl (.inr (.inr (.inr hd)))

end Sys2Proof.Machine
end

section
/-! Proofs of the statements of 42_control.md: `NOP` (R113), the idle cycle (R114), the reserved opcode (R115, R122), and
when `BIT_VALID` and `BIT_OUT` are written (R116). -/

namespace Sys2Proof.Machine

/-! The cycles of the control commands. -/

/-- R65: a cycle with `rst = 0` and `cmd_valid = 0` is idle, whatever `cmd_op` and the configuration bus carry. -/
theorem decode_of_no_command {c : Cycle} (lmax : Nat) (hr : c.rst = false) (hv : c.cmdValid = false) :
    decode lmax c = .error .idleCycle := by
  simp [decode, hr, hv]

/-- Settles O6: the cycle is idle, and what `step_idle` says of it is what `exec` gives for `NOP`. -/
theorem idleCycleActsAsNop : Obligations.IdleCycleActsAsNop := by
  intro s c rest hp hw hr hv
  have hstep := step_idle hp hw (decode_of_no_command s.lmax hr hv)
  exact ⟨hstep, hstep⟩

/-- Settles O13: `cmd_op = 00` decodes to `NOP` by the opcode map, whatever the bus. -/
theorem nopClearsOnlyBitValid : Obligations.NopClearsOnlyBitValid := by
  refine ⟨fun _ => rfl, fun s c rest hp hw hr hv hop => ?_⟩
  obtain ⟨hnop, -⟩ := opcodeMapDecodes s.lmax c hr hv
  exact step_command hp hw (hnop hop)

/-- Settles O14: `cmd_op = 11` decodes to the reserved opcode by the opcode map, whatever the bus; of the status fields
its error writes `ERR_ILLEGAL` alone. -/
theorem reservedSetsErrIllegal : Obligations.ReservedSetsErrIllegal := by
  refine ⟨fun _ => rfl, fun s c rest hp hw hr hv hop => ?_⟩
  obtain ⟨-, -, hreserved, -⟩ := opcodeMapDecodes s.lmax c hr hv
  exact step_command hp hw (hreserved hop)

/-! When `BIT_OUT` is written. -/

/-- R37, R116: every command but a producing `GEN` leaves `BIT_OUT` as it is. -/
theorem exec_bitOut_of_not_producing {i : Instr} {s t : State} (h : exec i s = .next t)
    (hgen : ¬(i = .gen ∧ s.ready = true)) : t.bitOut = s.bitOut := by
  obtain ⟨-, rfl⟩ | ⟨hi, hr, -⟩ | ⟨-, -, rfl⟩ | ⟨_, _, _, -, -, rfl⟩ | ⟨_, _, _, _, -, -, rfl⟩ | ⟨-, rfl⟩ :=
    exec_cases h
  case inr.inl => exact absurd ⟨hi, hr⟩ hgen
  all_goals simp

/-- Settles O34: `step_bitValid_iff` is the first clause; for the second an idle cycle writes no `BIT_OUT`, and
`exec_bitOut_of_not_producing` says what a command does. -/
theorem bitValidOnlyAfterProducingGen : Obligations.BitValidOnlyAfterProducingGen := by
  intro s t c rest hp hs
  refine ⟨step_bitValid_iff hp hs, fun hr hgen => ?_⟩
  obtain ⟨-, rfl⟩ | ⟨i, hd, hexec⟩ := step_cases_of_not_reset hp hs hr
  · rfl
  · exact exec_bitOut_of_not_producing (s := { s with pending := rest }) hexec (by simpa [hd] using hgen)

end Sys2Proof.Machine
end

section
/-! Proofs of the statements of 60_exceptions.md: what a run whose sticky bits are 0 at its end did not contain (R127,
R128, R129). -/

namespace Sys2Proof.Machine

/-! The two sticky bits under one name. -/

theorem hostError_eq_false_iff (s : State) :
    s.hostError = false ↔ s.errNotReady = false ∧ s.errIllegal = false := by
  simp [State.hostError]

/-- A cycle and the state it left show no breach of the host's duties (R129): neither sticky bit is set, and the cycle
carried neither the reserved opcode nor a `GEN` that was refused. -/
def CleanEntry (lmax : Nat) (e : Cycle × State) : Prop :=
  e.2.hostError = false ∧ decode lmax e.1 ≠ .ok .reserved ∧ (decode lmax e.1 = .ok .gen → e.2.bitValid = true)

/-- R138: a reset cycle carries no command, so only the sticky bits it left count. -/
theorem cleanEntry_of_reset {c : Cycle} {t : State} (lmax : Nat) (hr : c.rst = true) (ht : t.hostError = false) :
    CleanEntry lmax (c, t) := by
  have hd := (decode_eq_resetCycle_iff lmax c).mpr hr
  exact ⟨ht, by simp [hd], by simp [hd]⟩

/-- R127: nothing but a reset clears a sticky bit, so a cycle that is no reset and leaves both at 0 found them so. -/
theorem step_clean_of_not_reset {s t : State} {c : Cycle} {rest : List Cycle} (hp : s.pending = c :: rest)
    (hs : step s = .next t) (hr : c.rst = false) (ht : t.hostError = false) :
    s.hostError = false ∧ CleanEntry s.lmax (c, t) := by
  obtain ⟨hnotReady, hillegal⟩ := (stickyErrorsSetAndKept s t c rest hp hs).1 hr
  obtain ⟨htn, hti⟩ := (hostError_eq_false_iff t).mp ht
  simp only [htn, hti, Bool.false_eq_true, false_iff, not_or, Bool.not_eq_true] at hnotReady hillegal
  obtain ⟨hsn, hnotRefused⟩ := hnotReady
  obtain ⟨hsi, hnotReserved⟩ := hillegal
  refine ⟨(hostError_eq_false_iff s).mpr ⟨hsn, hsi⟩, ht, hnotReserved, fun hgen => ?_⟩
  have hready : s.ready = true := by simpa [hgen] using hnotRefused
  exact (step_bitValid_iff hp hs).mpr ⟨hgen, hready⟩

/-- Without a reset in it, a trace that ends clean began clean and was clean all along. -/
theorem trace_clean_of_finalState_clean {fuel : Nat} {s : State} {l : List (Cycle × State)}
    (h : trace fuel s = .next l) (hr : ∀ d ∈ s.pending, d.rst = false) (hend : (finalState s l).hostError = false) :
    s.hostError = false ∧ ∀ e ∈ l, CleanEntry s.lmax e := by
  induction fuel generalizing s l with
  | zero =>
    cases h
    exact ⟨hend, by simp⟩
  | succ fuel ih =>
    cases hp : s.pending with
    | nil =>
      cases (trace_of_pending_nil _ hp).symm.trans h
      exact ⟨hend, by simp⟩
    | cons c rest =>
      obtain ⟨t, l', hs, htrace, rfl⟩ := trace_next_inv hp h
      obtain ⟨hlmax, -, c', hp'⟩ := stepTakesOneCycleAndKeepsLmax s t hs
      obtain ⟨rfl, rfl⟩ := List.cons.inj (hp.symm.trans hp')
      obtain ⟨hrc, hrest⟩ := List.forall_mem_cons.mp (hp ▸ hr)
      obtain ⟨ht, hl'⟩ := ih htrace hrest (by simpa using hend)
      obtain ⟨hclean, hentry⟩ := step_clean_of_not_reset hp hs hrc ht
      exact ⟨hclean, List.forall_mem_cons.mpr ⟨hentry, hlmax ▸ hl'⟩⟩

/-- R143: an observation is of a trace that came to its end, and its final state is where that trace ends. -/
theorem observe_next_inv {s : State} {o : Observation} (h : s.observe = .next o) :
    ∃ l, trace s.pending.length s = .next l ∧ o.final = finalState s l := by
  unfold State.observe at h
  cases ht : trace s.pending.length s with
  | next l =>
    simp only [ht] at h
    split_ifs at h
    cases h
    exact ⟨l, rfl, rfl⟩
  | fault r => simp [ht] at h
  | refused r => simp [ht] at h

/-- A trace that begins with its only reset and ends clean was clean all along. -/
theorem trace_clean_of_reset_first {s : State} {c : Cycle} {rest : List Cycle} {l : List (Cycle × State)}
    (hp : s.pending = c :: rest) (hc : c.rst = true) (hrest : ∀ d ∈ rest, d.rst = false)
    (h : trace (rest.length + 1) s = .next l) (hend : (finalState s l).hostError = false) :
    ∀ e ∈ l, CleanEntry s.lmax e := by
  obtain ⟨t, l', hs, htrace, rfl⟩ := trace_next_inv hp h
  cases (step_reset hp hc).symm.trans hs
  obtain ⟨ht, hl'⟩ := trace_clean_of_finalState_clean htrace hrest (by simpa using hend)
  exact List.forall_mem_cons.mpr ⟨cleanEntry_of_reset _ hc ht, hl'⟩

/-- Settles O42: the trace behind the observation is the only one, and `trace_clean_of_reset_first` speaks of each of its
entries. -/
theorem runThatEndsCleanWasClean : Obligations.RunThatEndsCleanWasClean := by
  intro s c rest hc hrest hends
  obtain ⟨o, ho, hend⟩ := hends
  obtain ⟨l, htrace, hfinal⟩ := observe_next_inv ho
  have hclean : ∀ e ∈ l, CleanEntry s.lmax e :=
    trace_clean_of_reset_first (s := s.powerUp (c :: rest)) rfl hc hrest htrace (hfinal ▸ hend)
  refine ⟨⟨o, l, ho, htrace, fun e he => (hclean e he).1⟩, fun l' hl' e he => ?_⟩
  cases htrace.symm.trans hl'
  exact (hclean e he).2

end Sys2Proof.Machine
end

section
/-! Proofs of the statements of 70_reset_and_hazards.md: what is observed of a run that starts with a reset (R137, R143,
R144). -/

namespace Sys2Proof.Machine

/-! The trace of cycles that can be driven. -/

theorem SameGenerator.refl (s : State) : SameGenerator s s := ⟨rfl, rfl, rfl, rfl, rfl, rfl, rfl⟩

/-- R144: on a block that has been reset a trace of cycles that can be driven comes to its end. -/
theorem exists_trace_eq_next {s : State} {cycles : List Cycle} (hw : s.wasReset = true) (hp : s.pending = cycles)
    (hd : ∀ c ∈ cycles, decode s.lmax c ≠ .error .busWidth) : ∃ l, trace cycles.length s = .next l := by
  obtain ⟨l, -, hl, -, -⟩ := (SameGenerator.refl s).trace_next hw hp hd
  exact ⟨l, hl⟩

/-- R137: a reset comes to its end in every state, and so do the cycles that can be driven after it. -/
theorem exists_trace_of_reset_first {s : State} {c : Cycle} {rest : List Cycle} (hp : s.pending = c :: rest)
    (hc : c.rst = true) (hd : ∀ d ∈ rest, decode s.lmax d ≠ .error .busWidth) :
    ∃ l, trace (rest.length + 1) s = .next l := by
  obtain ⟨l, hl⟩ := exists_trace_eq_next (s := State.resetOf s.lmax rest) rfl rfl hd
  exact ⟨_, trace_of_next hp (step_reset hp hc) hl⟩

/-- A trace has one entry for each cycle it takes, in the order the host presents them. -/
theorem map_fst_trace {fuel : Nat} {s : State} {l : List (Cycle × State)} (h : trace fuel s = .next l) :
    l.map Prod.fst = s.pending.take fuel := by
  induction fuel generalizing s l with
  | zero =>
    cases h
    simp
  | succ fuel ih =>
    cases hp : s.pending with
    | nil =>
      cases (trace_of_pending_nil _ hp).symm.trans h
      rfl
    | cons c rest =>
      obtain ⟨t, l', hs, ht, rfl⟩ := trace_next_inv hp h
      obtain ⟨-, -, c', hp'⟩ := stepTakesOneCycleAndKeepsLmax s t hs
      obtain ⟨-, hrest⟩ := List.cons.inj (hp.symm.trans hp')
      rw [List.map_cons, ih ht, ← hrest, List.take_succ_cons]

/-- R45: the state after each cycle of a trace is one of a block that has been reset, with the `LMAX` the trace began
with. -/
theorem host_fields_of_mem_trace {fuel : Nat} {s : State} {l : List (Cycle × State)} (h : trace fuel s = .next l)
    {a : Cycle × State} (ha : a ∈ l) : a.2.lmax = s.lmax ∧ a.2.wasReset = true := by
  obtain ⟨u, -, hlmax, -, hs⟩ := exists_step_of_mem_trace h ha
  obtain ⟨hstep, hw, -⟩ := stepTakesOneCycleAndKeepsLmax u a.2 hs
  exact ⟨hstep.trans hlmax, hw⟩

/-- The last entry of a trace shows the state the trace ends in. -/
theorem getLast_snd_eq_finalState {l : List (Cycle × State)} (hne : l ≠ []) (s : State) :
    (l.getLast hne).2 = finalState s l := by
  simp [finalState, List.getLast?_eq_some_getLast hne]

/-! What is observed. -/

/-- R143: a trace with at least one cycle that comes to its end is observed. -/
theorem observe_of_trace {s : State} {l : List (Cycle × State)} (h : trace s.pending.length s = .next l)
    (hne : l ≠ []) :
    s.observe = .next
      { bits := producedBits l
        cfgStatus := (l.filter fun e => carriesCfg e.2.lmax e.1).map fun e => e.2.status
        final := finalState s l } := by
  have hw : (finalState s l).wasReset = true := by
    rw [← getLast_snd_eq_finalState hne s]
    exact (host_fields_of_mem_trace h (List.getLast_mem hne)).2
  simp [State.observe, h, hw]

/-- Settles O46: the trace comes to its end, so it is what is observed. Only `GEN`s show a produced bit in it, every
entry has the `LMAX` of the block, and its last entry is the last cycle with the final state. -/
theorem runFromResetIsObserved : Obligations.RunFromResetIsObserved := by
  intro s c rest hc hd
  obtain ⟨l, hl⟩ := exists_trace_of_reset_first (s := s.powerUp (c :: rest)) rfl hc hd
  have hcycles : l.map Prod.fst = c :: rest := (map_fst_trace hl).trans (List.take_length (l := c :: rest))
  have hne : l ≠ [] := fun h => by simp [h] at hcycles
  refine ⟨_, l, observe_of_trace hl hne, hl, hcycles, ?bits, ?cfgStatus, ?last⟩
  case bits => exact producedBits_eq_map_filter_carriesGen fun a ha => carriesGen_of_mem_trace hl ha
  case cfgStatus =>
    refine congrArg _ (List.filter_congr fun a ha => ?_)
    rw [(host_fields_of_mem_trace hl ha).1]
    rfl
  case last =>
    have hlast : (l.getLast hne).1 = (c :: rest).getLast (List.cons_ne_nil c rest) := by
      simp only [← hcycles, List.getLast_map]
    rw [List.getLast?_eq_some_getLast hne, ← hlast, ← getLast_snd_eq_finalState hne]

end Sys2Proof.Machine
end

section
/-! Proof of the end of a run: without a further cycle the step answers a fault (70_reset_and_hazards.md section 2, log
entry 3). -/

namespace Sys2Proof.Machine

/-- R143: no cycle is taken exactly when the host presents none. -/
theorem takeCycle_eq_none_iff {s : State} : s.takeCycle = none ↔ s.pending = [] := by
  unfold State.takeCycle
  cases s.pending <;> simp

/-- Settles O4: a step takes its cycle first, and there is none to take. -/
theorem noCycleNoStep : Obligations.NoCycleNoStep := by
  intro s hp
  have htake : s.takeCycle = none := takeCycle_eq_none_iff.mpr hp
  simp only [step, htake]

end Sys2Proof.Machine
end
